-- ==== Sys2Proof/Word.lean ====
section
/-! DEFINITION. The word types of the block (00_scope.md R11: a byte is 8 bits, every value is unsigned).
Nothing here computes: byte order, bit fields and the checksum stand in Machine/Bytes.lean. -/

namespace Sys2Proof

/-- A byte, the unit of the transport, of the host frames and of the wire record (R11). -/
abbrev Byte := BitVec 8

/-- One group slot of the wire record, a 4-bit value (41_group_codec.md R140). -/
abbrev Nibble := BitVec 4

/-- A subtone, and the field mask `M` of WRITE_NEW and UPDATE (30_encoding.md R93, R103). -/
abbrev Word16 := BitVec 16

/-- A frequency, and the two byte counters (30_encoding.md R101; 10_state.md R36). -/
abbrev Word32 := BitVec 32

/-- A fault latch field: bit 8 says whether bits 7:0 hold a value (10_state.md R31). -/
abbrev Word9 := BitVec 9

end Sys2Proof
end

