-- ==== Sys2Proof/Config.lean ====
section
/-! DEFINITION. What is fixed for the block (00_scope.md R7), the parameters the source leaves open
(R8, 92_eei_decisions.md "Open parameters") and the free values of the environment (R9). -/

namespace Sys2Proof.Config

/-- NUM_CHANNELS: the channel numbers are 1..198 (R7). -/
def numChannels : Nat := 198
/-- RECORD_BYTES (R7). -/
def recordBytes : Nat := 32
/-- NAME_BYTES (R7). -/
def nameBytes : Nat := 12
/-- GROUP_SLOTS (R7). -/
def groupSlots : Nat := 4
/-- BAUD: the line rate OPEN uses (R7, R376). No rule depends on it. -/
def baud : Nat := 38400
/-- FREQ_MIN (R7). -/
def freqMin : Nat := 1800000
/-- FREQ_MAX (R7). -/
def freqMax : Nat := 130000000
/-- TONE_MIN (R7). -/
def toneMin : Nat := 670
/-- TONE_MAX (R7). -/
def toneMax : Nat := 2541
/-- DEFAULT_FREQ (R7, R172). -/
def defaultFreq : Word32 := 14495000#32
/-- KEY_RELEASE (R7, R114). -/
def keyRelease : Byte := 0xFF#8
/-- CHECKSUM_BYTES (R7). -/
def checksumBytes : Nat := 1

/-- `P_READ_TIMEOUT` (D25): no value is given and no rule depends on it (R8, R338). -/
opaque readTimeout : Nat

/-- `P_DWELL` less one: `P_DWELL` has no given value and is positive (R8, D26). -/
opaque dwellPred : Nat

/-- `P_DWELL` (D26, R339): positive, otherwise open. The model records a `dwell` event only. -/
def dwellTime : Nat := dwellPred + 1

/-- `P_PORT` (D27): the serial device OPEN opens. -/
opaque serialPort : String

/-- Parity of a serial character (part of `P_LINE_FORMAT`, D38). -/
inductive Parity where
  | none | even | odd
  deriving DecidableEq, Repr, Inhabited

/-- Flow control of the line (part of `P_LINE_FORMAT`, D38). -/
inductive FlowControl where
  | none | hardware | software
  deriving DecidableEq, Repr, Inhabited

/-- The shape of `P_LINE_FORMAT` (D38: data bits, parity, stop bits, flow control). -/
structure LineFormat where
  dataBits : Nat
  parity : Parity
  stopBits : Nat
  flow : FlowControl
  deriving DecidableEq, Repr, Inhabited

/-- `P_LINE_FORMAT` (D38): no rule depends on it (R340). -/
opaque lineFormat : LineFormat

/-- PEER's answer to the read whose number is given, where the state lists no answer for it: any bytes
at all (R9, I12). A read keeps at most as many of them as it asked for. DESIGN CHOICE, log entry 4. -/
opaque peerAnswer : Nat → List Byte

/-- The outcome of opening a device, the given number of draws having been made, where the state lists
no outcome for it: OK (`true`) or FAIL (R305, I10). DESIGN CHOICE, log entry 4. -/
opaque openAnswer : String → Nat → Bool

end Sys2Proof.Config
end

