-- ==== Sys2Proof/Machine/Bytes.lean ====
section
/-! DEFINITION. Byte order (00_scope.md R12), single-bit writes, and the checksum unit's function
(40_checksum.md R130). -/

namespace Sys2Proof.Machine

/-- Byte `i` of a sequence; 0 past its end, a case no rule reaches. -/
def byteAt (s : List Byte) (i : Nat) : Byte := s.getD i 0#8

/-- `le16(s, o)` of R12: the byte at the lower offset is the less significant one. -/
def le16 (s : List Byte) (o : Nat) : Word16 := byteAt s (o + 1) ++ byteAt s o

/-- `le32(s, o)` of R12. -/
def le32 (s : List Byte) (o : Nat) : Word32 :=
  (byteAt s (o + 3) ++ byteAt s (o + 2)) ++ (byteAt s (o + 1) ++ byteAt s o)

/-- `bytes_le16(v)` of R12: least significant byte first. -/
def bytesLE16 (v : Word16) : List Byte := [v.extractLsb' 0 8, v.extractLsb' 8 8]

/-- `bytes_le32(v)` of R12: least significant byte first. -/
def bytesLE32 (v : Word32) : List Byte :=
  [v.extractLsb' 0 8, v.extractLsb' 8 8, v.extractLsb' 16 8, v.extractLsb' 24 8]

/-- `v` with bit `i` made `b`. -/
def setBit (v : Byte) (i : Nat) (b : Bool) : Byte :=
  if b then v ||| (1#8 <<< i) else v &&& ~~~(1#8 <<< i)

/-- `checksum(s)` of R130: the sum of the byte values modulo 256; 0 for the empty sequence. -/
def checksum : List Byte → Byte
  | [] => 0#8
  | b :: s => b + checksum s

end Sys2Proof.Machine
end

