-- ==== Sys2Proof/Syntax.lean ====
section
/-! DEFINITION. The instructions: one constructor per row of spec/opcode_table.json, the 12 wire
commands (43_protocol.md) and the 21 host requests (30_encoding.md R91), with their operands. -/

namespace Sys2Proof

/-- A record descriptor `RD`, the host-side form of a channel record (30_encoding.md R95). Every field
holds what the frame's bytes say, valid or not; the name length `L` is the length of `name`. -/
structure RD where
  rx : Word32
  tx : Word32
  rxt : Word16
  txt : Word16
  pwr : Byte
  g0 : Byte
  g1 : Byte
  g2 : Byte
  g3 : Byte
  modulation : Byte
  bandwidth : Byte
  name : List Byte
  deriving DecidableEq, Repr, Inhabited

/-- The instruction set (00_scope.md R2): the wire commands, whose bytes SEQ transmits, and the host
requests, whose bytes the host presents. -/
inductive Instr where
  /-- W_READ_CH `30 n` (R204). -/
  | wReadCh (n : Byte)
  /-- W_WRITE_CH `31 n d0 .. d31 c` (R206). -/
  | wWriteCh (n : Byte) (d : List Byte) (c : Byte)
  /-- W_BATTERY `32` (R207). -/
  | wBattery
  /-- W_DISABLE `45` (R202). -/
  | wDisable
  /-- W_ENABLE `46` (R203). -/
  | wEnable
  /-- W_FLASH_ON `47` (R208). -/
  | wFlashOn
  /-- W_FLASH_OFF `48` (R209). -/
  | wFlashOff
  /-- W_RESET `49` (R210). -/
  | wReset
  /-- W_REMOTE_START `4A` (R211). -/
  | wRemoteStart
  /-- W_REMOTE_END `4B` (R212). -/
  | wRemoteEnd
  /-- W_KEY_DOWN `80|c` (R213). -/
  | wKeyDown (c : BitVec 7)
  /-- W_KEY_UP `FF` (R214). -/
  | wKeyUp
  /-- GET `01 n` (R242). -/
  | get (n : Byte)
  /-- PUT `02 n RD` (R243). -/
  | put (n : Byte) (rd : RD)
  /-- ERASE `03 n` (R244). -/
  | erase (n : Byte)
  /-- WRITE_NEW `04 n M RD` (R245). -/
  | writeNew (n : Byte) (m : Word16) (rd : RD)
  /-- UPDATE `05 n M RD` (R246). -/
  | update (n : Byte) (m : Word16) (rd : RD)
  /-- EXPORT_ALL `06` (R247). -/
  | exportAll
  /-- IMPORT_ALL `07 K (n RD)*K` (R248 to R250). -/
  | importAll (entries : List (Byte × RD))
  /-- SEND_KEYS `08 K c*K` (R300). -/
  | sendKeys (codes : List Byte)
  /-- FLASH_ON `09` (R301). -/
  | flashOn
  /-- FLASH_OFF `0A` (R302). -/
  | flashOff
  /-- RESET_RADIO `0B` (R303). -/
  | resetRadio
  /-- READ_BATTERY `0C` (R304). -/
  | readBattery
  /-- OPEN `0F` (R305). -/
  | openTransport
  /-- CHECKSUM `10 L s*L` (R131). -/
  | checksum (s : List Byte)
  /-- GROUP_DECODE `11 b0 b1` (R145). -/
  | groupDecode (b0 b1 : Byte)
  /-- GROUP_ENCODE `12 K g*K` (R146). -/
  | groupEncode (g : List Byte)
  /-- GROUP_FROM_LETTERS `13 L c*L` (R147). -/
  | groupFromLetters (t : List Byte)
  /-- GROUP_TO_LETTERS `14 K v*K` (R148). -/
  | groupToLetters (v : List Byte)
  /-- RECORD_DECODE `15 s0 .. s31` (R174). -/
  | recordDecode (s : List Byte)
  /-- RECORD_ENCODE `16 RD` (R175). -/
  | recordEncode (rd : RD)
  /-- IS_EMPTY `17 s0 .. s31` (R176). -/
  | isEmpty (s : List Byte)
  deriving DecidableEq, Repr

end Sys2Proof
end

