-- ==== Sys2Proof/Decode.lean ====
section
/-! DEFINITION. The decoder, total on any bytes and rejecting by name, and after it the encoder, both
from the encoding tables of 30_encoding.md (R91 for the host requests, R111 for the wire commands). -/

namespace Sys2Proof

open Machine (le16 le32 bytesLE16 bytesLE32)

/-- Why a byte sequence is no instruction. -/
inductive Reject where
  /-- The sequence is empty (44_channel_store.md R240). -/
  | emptyFrame
  /-- The request code is undefined (30_encoding.md R92). -/
  | undefinedRequest (req : Byte)
  /-- The byte is no command opcode (30_encoding.md R115). -/
  | undefinedOpcode (op : Byte)
  /-- The length differs from the one its code and counts imply (30_encoding.md R94, R116). -/
  | badLength
  deriving DecidableEq, Repr

/-- The first `n` bytes and what follows; `none` if there are fewer. -/
def splitBytes : Nat → List Byte → Option (List Byte × List Byte)
  | 0, s => some ([], s)
  | _ + 1, [] => none
  | n + 1, b :: s => (splitBytes n s).map fun p => (b :: p.1, p.2)

/-- A count byte and as many bytes as it says (`K` or `L` of R91). -/
def parseCounted : List Byte → Option (List Byte × List Byte)
  | [] => none
  | k :: s => splitBytes k.toNat s

/-- The fixed 19 bytes of an `RD`, with its name (R95). -/
def rdOf (h : List Byte) (name : List Byte) : RD where
  rx := le32 h 0
  tx := le32 h 4
  rxt := le16 h 8
  txt := le16 h 10
  pwr := Machine.byteAt h 12
  g0 := Machine.byteAt h 13
  g1 := Machine.byteAt h 14
  g2 := Machine.byteAt h 15
  g3 := Machine.byteAt h 16
  modulation := Machine.byteAt h 17
  bandwidth := Machine.byteAt h 18
  name := name

/-- An `RD` of `20 + L` bytes, `L` being its byte 19 (R94, R95). -/
def parseRD (s : List Byte) : Option (RD × List Byte) :=
  match splitBytes 19 s with
  | none => none
  | some (h, t) => (parseCounted t).map fun p => (rdOf h p.1, p.2)

/-- A mask `M`, low byte first (R93), and an `RD`. -/
def parseMaskRD : List Byte → Option ((Word16 × RD) × List Byte)
  | lo :: hi :: s => (parseRD s).map fun p => ((le16 [lo, hi] 0, p.1), p.2)
  | _ => none

/-- `K` entries `n RD`, each entry's length found from its own name-length byte (R94). -/
def parseEntries : Nat → List Byte → Option (List (Byte × RD) × List Byte)
  | 0, s => some ([], s)
  | _ + 1, [] => none
  | k + 1, n :: s =>
    match parseRD s with
    | none => none
    | some (rd, t) => (parseEntries k t).map fun p => ((n, rd) :: p.1, p.2)

/-- A parsed operand made an instruction; a missing byte is a length mismatch (R94). -/
def build {α : Type} (mk : α → Instr) : Option (α × List Byte) → Except Reject (Instr × List Byte)
  | none => .error .badLength
  | some (a, rest) => .ok (mk a, rest)

/-- One byte. -/
def parseByte : List Byte → Option (Byte × List Byte)
  | [] => none
  | b :: s => some (b, s)

/-- A channel number and an `RD`. -/
def parseChannelRD : List Byte → Option ((Byte × RD) × List Byte)
  | [] => none
  | n :: s => (parseRD s).map fun p => ((n, p.1), p.2)

/-- A channel number, a mask and an `RD`. -/
def parseChannelMaskRD : List Byte → Option ((Byte × Word16 × RD) × List Byte)
  | [] => none
  | n :: s => (parseMaskRD s).map fun p => ((n, p.1), p.2)

/-- Two bytes. -/
def parseTwo : List Byte → Option ((Byte × Byte) × List Byte)
  | b0 :: b1 :: s => some ((b0, b1), s)
  | _ => none

/-- A count of entries and the entries. -/
def parseImport : List Byte → Option (List (Byte × RD) × List Byte)
  | [] => none
  | k :: s => parseEntries k.toNat s

/-- The operands of the request `req` (R91) and the bytes left over. -/
def parseRequestBody (req : Byte) (s : List Byte) : Except Reject (Instr × List Byte) :=
  match req.toNat with
  | 0x01 => build .get (parseByte s)
  | 0x02 => build (fun p => .put p.1 p.2) (parseChannelRD s)
  | 0x03 => build .erase (parseByte s)
  | 0x04 => build (fun p => .writeNew p.1 p.2.1 p.2.2) (parseChannelMaskRD s)
  | 0x05 => build (fun p => .update p.1 p.2.1 p.2.2) (parseChannelMaskRD s)
  | 0x06 => .ok (.exportAll, s)
  | 0x07 => build .importAll (parseImport s)
  | 0x08 => build .sendKeys (parseCounted s)
  | 0x09 => .ok (.flashOn, s)
  | 0x0A => .ok (.flashOff, s)
  | 0x0B => .ok (.resetRadio, s)
  | 0x0C => .ok (.readBattery, s)
  | 0x0F => .ok (.openTransport, s)
  | 0x10 => build .checksum (parseCounted s)
  | 0x11 => build (fun p => .groupDecode p.1 p.2) (parseTwo s)
  | 0x12 => build .groupEncode (parseCounted s)
  | 0x13 => build .groupFromLetters (parseCounted s)
  | 0x14 => build .groupToLetters (parseCounted s)
  | 0x15 => build .recordDecode (splitBytes Config.recordBytes s)
  | 0x16 => build .recordEncode (parseRD s)
  | 0x17 => build .isEmpty (splitBytes Config.recordBytes s)
  | _ => .error (.undefinedRequest req)

/-- A channel number, 32 data bytes and a checksum byte (R111, W_WRITE_CH). -/
def parseWrite : List Byte → Option ((Byte × List Byte × Byte) × List Byte)
  | [] => none
  | n :: s =>
    match splitBytes Config.recordBytes s with
    | none => none
    | some (d, t) => (parseByte t).map fun p => ((n, d, p.1), p.2)

/-- The operands of the wire command at a command position (R111, R116) and the bytes left over. -/
def parseWireBody (op : Byte) (s : List Byte) : Except Reject (Instr × List Byte) :=
  if op = 0xFF#8 then .ok (.wKeyUp, s)
  else if op.msb then .ok (.wKeyDown (op.setWidth 7), s)
  else
    match op.toNat with
    | 0x30 => build .wReadCh (parseByte s)
    | 0x31 => build (fun p => .wWriteCh p.1 p.2.1 p.2.2) (parseWrite s)
    | 0x32 => .ok (.wBattery, s)
    | 0x45 => .ok (.wDisable, s)
    | 0x46 => .ok (.wEnable, s)
    | 0x47 => .ok (.wFlashOn, s)
    | 0x48 => .ok (.wFlashOff, s)
    | 0x49 => .ok (.wReset, s)
    | 0x4A => .ok (.wRemoteStart, s)
    | 0x4B => .ok (.wRemoteEnd, s)
    | _ => .error (.undefinedOpcode op)

/-- A whole frame: nothing may be left over (R94). -/
def wholeFrame : Except Reject (Instr × List Byte) → Except Reject Instr
  | .error e => .error e
  | .ok (i, rest) => if rest.isEmpty then .ok i else .error .badLength

/-- The request frames the host port takes (R91, R92, R94). -/
def decodeRequest : List Byte → Except Reject Instr
  | [] => .error .emptyFrame
  | req :: s => wholeFrame (parseRequestBody req s)

/-- The frames of the wire commands (R111, R115). -/
def decodeWire : List Byte → Except Reject Instr
  | [] => .error .emptyFrame
  | op :: s => wholeFrame (parseWireBody op s)

/-- No first byte is both a request code and an opcode: the requests' end at 0x17 (R91) and the
opcodes begin at 0x30 (R115). -/
def parseBody (b : Byte) (s : List Byte) : Except Reject (Instr × List Byte) :=
  if b.toNat < 0x30 then parseRequestBody b s else parseWireBody b s

/-- Any frame of either layer (R2). -/
def decode : List Byte → Except Reject Instr
  | [] => .error .emptyFrame
  | b :: s => wholeFrame (parseBody b s)

/-! ### The encoder -/

/-- A count byte and its bytes (R91). -/
def encodeCounted (l : List Byte) : List Byte := BitVec.ofNat 8 l.length :: l

/-- The bytes of an `RD` in the order of R95's table. -/
def encodeRD (rd : RD) : List Byte :=
  bytesLE32 rd.rx ++ bytesLE32 rd.tx ++ bytesLE16 rd.rxt ++ bytesLE16 rd.txt ++
    [rd.pwr, rd.g0, rd.g1, rd.g2, rd.g3, rd.modulation, rd.bandwidth] ++ encodeCounted rd.name

/-- The frame of an instruction (R91, R111). -/
def encode : Instr → List Byte
  | .wReadCh n => [0x30#8, n]
  | .wWriteCh n d c => 0x31#8 :: n :: (d ++ [c])
  | .wBattery => [0x32#8]
  | .wDisable => [0x45#8]
  | .wEnable => [0x46#8]
  | .wFlashOn => [0x47#8]
  | .wFlashOff => [0x48#8]
  | .wReset => [0x49#8]
  | .wRemoteStart => [0x4A#8]
  | .wRemoteEnd => [0x4B#8]
  | .wKeyDown c => [0x80#8 ||| c.setWidth 8]
  | .wKeyUp => [0xFF#8]
  | .get n => [0x01#8, n]
  | .put n rd => 0x02#8 :: n :: encodeRD rd
  | .erase n => [0x03#8, n]
  | .writeNew n m rd => 0x04#8 :: n :: (bytesLE16 m ++ encodeRD rd)
  | .update n m rd => 0x05#8 :: n :: (bytesLE16 m ++ encodeRD rd)
  | .exportAll => [0x06#8]
  | .importAll es => 0x07#8 :: BitVec.ofNat 8 es.length :: es.flatMap fun e => e.1 :: encodeRD e.2
  | .sendKeys cs => 0x08#8 :: encodeCounted cs
  | .flashOn => [0x09#8]
  | .flashOff => [0x0A#8]
  | .resetRadio => [0x0B#8]
  | .readBattery => [0x0C#8]
  | .openTransport => [0x0F#8]
  | .checksum s => 0x10#8 :: encodeCounted s
  | .groupDecode b0 b1 => [0x11#8, b0, b1]
  | .groupEncode g => 0x12#8 :: encodeCounted g
  | .groupFromLetters t => 0x13#8 :: encodeCounted t
  | .groupToLetters v => 0x14#8 :: encodeCounted v
  | .recordDecode s => 0x15#8 :: s
  | .recordEncode rd => 0x16#8 :: encodeRD rd
  | .isEmpty s => 0x17#8 :: s

/-! ### The host's table words -/

/-- The longest frame: an IMPORT_ALL of 255 entries with 255-byte names (R94). -/
def longestFrame : Nat := 2 + 255 * (1 + 20 + 255)

/-- The bytes of a table word of `n` bytes, the least significant first. -/
def wordBytes : Nat → Nat → List Byte
  | 0, _ => []
  | n + 1, w => BitVec.ofNat 8 w :: wordBytes n (w / 256)

/-- A table word's bytes with zero bytes after them, up to the longest frame. -/
def tableBytes (nbits w : Nat) : List Byte :=
  wordBytes (nbits / 8) w ++ List.replicate longestFrame 0#8

/-- The instruction at the head of some bytes, whatever follows it. -/
def decodeHead : List Byte → Option Instr
  | [] => none
  | b :: s =>
    match parseBody b s with
    | .error _ => none
    | .ok (i, _) => some i

/-- The instruction the decoder reads from a word of the opcode table, every bit above `nbits` 0. -/
def decodeTableWord (nbits w : Nat) : Option Instr := decodeHead (tableBytes nbits w)

/-- The frame of that instruction: the table word's own bytes, as many as the frame has. -/
def tableFrame (nbits w : Nat) (i : Instr) : List Byte := (tableBytes nbits w).take (encode i).length

end Sys2Proof
end

