-- ==== Sys2Proof/Machine/State.lean ====
section
/-! DEFINITION. The state of SEQ as plain data (10_state.md R20 to R45), the model's own inputs of the
environment (the host and PEER, 00_scope.md R9), the two ways a step can stop, and the state after
block reset (70_reset_and_hazards.md R360). -/

namespace Sys2Proof.Machine

/-- MODE (R21). The values 6 and 7 are never held: there is no constructor for them. -/
inductive Mode where
  | closed | idle | busy | faulted | terminated | refused
  deriving DecidableEq, Repr, Inhabited

/-- The fault classes of ERRCODE (60_exceptions.md R320). `none` is code 0, no fault latched. -/
inductive FaultClass where
  | none | transportOpen | ackMismatch | emptyResponse | checksumMismatch | validation
  | internalEncoding | shortResponse | updateEmptySlot | illegalRequest
  deriving DecidableEq, Repr, Inhabited

/-- The named bits of FLAGS (R23). -/
inductive Flag where
  | radioDisabled | remoteActive | warnNameTrunc | lastEmpty | refusedMark
  deriving DecidableEq, Repr

/-- The modulations (30_encoding.md R107). -/
inductive Modulation where
  | auto | fm | am | usb
  deriving DecidableEq, Repr, Inhabited

/-- The bandwidths (30_encoding.md R107). -/
inductive Bandwidth where
  | wide | narrow
  deriving DecidableEq, Repr, Inhabited

/-- Four group values (41_group_codec.md R140, R141). -/
structure Groups where
  g0 : Nibble
  g1 : Nibble
  g2 : Nibble
  g3 : Nibble
  deriving DecidableEq, Repr, Inhabited

/-- A record value (42_channel_record.md R160): every width-correct value, valid or not. -/
structure Record where
  rx : Word32
  tx : Word32
  rxt : Word16
  txt : Word16
  pwr : Byte
  g : Groups
  modulation : Modulation
  bandwidth : Bandwidth
  name : List Byte
  deriving DecidableEq, Repr, Inhabited

/-- Byte-addressed storage, in one canonical form (`Memory.wf`): addresses strictly rising, no entry
equal to what an unlisted address reads as. -/
abbrev Memory := List Host.Cell

/-- The import working set (R41), in one canonical form (`workingSetWf`): a channel with no entry is
absent. -/
abbrev WorkingSet := List (Byte × Record)

/-- The events of the transcript (00_scope.md R13, R14). -/
inductive Event where
  /-- `Tx b`. -/
  | tx (b : Byte)
  /-- `Rx n r`: up to `n` bytes asked for, the bytes `r` returned. -/
  | rx (n : Nat) (r : List Byte)
  /-- `Dwell`. -/
  | dwell
  deriving DecidableEq, Repr

/-- The micro-steps STEP goes through (R42): each `TX`, `RX`, `DWELL`, `out` and assignment of the
pseudocode of acceptance (44_channel_store.md R240) and of the requests, with its operands. Which tests are
micro-steps of their own, which are joined with what they guard and which are none, and how finely a
validator, fault entry and a refusal are cut, is the model's choice (log entry 2). -/
inductive Micro where
  /-- An assignment to a local of the pseudocode: `REQ`, `c`, `g`, `v`, `t`, `e`, `o`, `base` or `r`. No
  element of R20 holds it: it is computed again, from what it was computed from, where it is used. -/
  | localValue
  /-- `raise ILLEGAL_REQUEST(sub = reason)` for a frame that is no request (R240). -/
  | rejectFrame (reason : Byte)
  /-- `FLAGS.WARN_NAME_TRUNC <- 0` (R26, R240). -/
  | clearWarning
  /-- The tests of MODE for a transport request: reasons 2 and 3 (R240). -/
  | admitTransport
  /-- The test of MODE for OPEN: reason 4 (R240). -/
  | admitOpen
  /-- `MODE <- BUSY` (R240). -/
  | begin
  /-- `refuse(battery)` (R304, R334). -/
  | refuseBattery
  /-- `TX(b)` (R13). -/
  | tx (b : Byte)
  /-- `TX(REC_BUF[i])` (R206). -/
  | txRec (i : Fin 32)
  /-- `TX(CK_REG)` (R206). -/
  | txCheck
  /-- `r <- RX(1)` (R201). -/
  | readAck
  /-- The tests of `ACK(e)` on `r` (R201). -/
  | checkAck (e : Byte)
  /-- `r <- RX(33)` (R204). -/
  | readRecord
  /-- `check_read(r)`: none, or too few bytes (R205). -/
  | checkLength
  /-- `CK_REG <- checksum(r[0..32])` (R205). -/
  | sumResponse
  /-- `check_read(r)`: `CK_REG` against `r[32]` (R205). -/
  | checkSum
  /-- `REC_BUF <- r[0..32]` (R204). -/
  | takeRecord
  /-- `DWELL` (R13). -/
  | dwell
  /-- `TX(0x80 | c)` (R213). -/
  | keyDown (c : BitVec 7)
  /-- `FLAGS.RADIO_DISABLED <- b` (R202, R203). -/
  | radioDisabled (b : Bool)
  /-- `FLAGS.REMOTE_ACTIVE <- b` (R211, R212). -/
  | remoteActive (b : Bool)
  /-- `ADDR_REG <- n` (R204, R206). -/
  | address (n : Byte)
  /-- `CK_REG <- checksum(REC_BUF[0..32])` (R206). -/
  | sumRecord
  /-- `validate_channel(n)` (R281). -/
  | validateChannel (n : Byte)
  /-- The checks of `validate_supplied(rd, M)` for channel `n`; of `validate_all(rd)` when `M` has every
  bit (R293). -/
  | validateFields (n : Byte) (m : Word16) (rd : RD)
  /-- `FLAGS.WARN_NAME_TRUNC <- 1` if `long`: the end of the validation of a name (R285, R293). -/
  | noteTruncation (long : Bool)
  /-- The key-code test of SEND_KEYS (R290, R300). -/
  | validateKeys (codes : List Byte)
  /-- `REC_BUF <- rencode(r)` (R165). -/
  | encode (r : Record)
  /-- `check length = 32` of what was encoded (R169). -/
  | checkEncoded (r : Record)
  /-- `REC_BUF <- rencode(r)`, `r` being `merge(rdecode(REC_BUF), M, rd)` (R246). -/
  | encodeMerged (m : Word16) (rd : RD)
  /-- `check length = 32` after that: merging again into what REC_BUF now holds gives a record of the same
  length (R169, R246). -/
  | checkMerged (m : Word16) (rd : RD)
  /-- `REC_BUF <- [0xFF] * 32` (R244). -/
  | fillEmpty
  /-- The operands of a write-channel frame given whole: `REC_BUF <- d`, `c` being `checksum(d)`
  (R132, R206). -/
  | loadFrame (d : List Byte) (c : Byte)
  /-- `FLAGS.LAST_EMPTY <- e`, `e` being `is_empty(REC_BUF)` (R242). -/
  | noteEmpty
  /-- `if e: raise UPDATE_EMPTY_SLOT(chan = n)` (R246). -/
  | requireSlot (n : Byte)
  /-- `CHAN_CTR <- n` (R247, R249). -/
  | setChanCtr (n : Byte)
  /-- `if not e: out(0xA0, n, RD(rdecode(REC_BUF)))` (R247), the test with its `out` (log entry 2). -/
  | exportItem
  /-- `WS[j] <- absent` (R248). -/
  | clearEntry (j : Byte)
  /-- `if WS[n] is present: raise VALIDATION(field = 10, chan = n)` (R248, R291). -/
  | requireAbsent (n : Byte)
  /-- `WS[n] <- ` the record of a validated `rd` (R248). -/
  | setEntry (n : Byte) (rd : RD)
  /-- `REC_BUF <- rencode(WS[n])`, or the erase pattern where WS[n] is absent (R249): the test with the
  assignment of its branch (log entry 2). -/
  | importSlot (n : Byte)
  /-- `check length = 32` of a slot taken from WS; where WS[n] is absent, whose branch has no such check
  (R249), a micro-step that changes nothing (log entry 2). -/
  | checkSlot (n : Byte)
  /-- `if o = FAIL: raise TRANSPORT_OPEN`, `o` being the draw, used up here (R305). -/
  | requireOpen
  /-- `MODE <- TERMINATED` (`terminal`) or `MODE <- IDLE` at a request's end (R241, R305). -/
  | complete (terminal : Bool)
  /-- `out(ST)` (R97, R241). -/
  | respond
  /-- GET's `out(ST, E, ...)`, with the test on `e` that chooses it (R242; log entry 2). -/
  | respondGet
  /-- RECORD_ENCODE's `out(ST, REC_BUF[0..32])` (R175). -/
  | respondRecord
  /-- `out(item)` of a pure request. -/
  | emit (item : List Byte)
  /-- `CK_REG <- c` (R131). -/
  | setCheck (c : Byte)
  /-- `FLAGS.LAST_EMPTY <- e` (R176). -/
  | setLastEmpty (e : Bool)
  /-- GROUP_ENCODE's test (R146). -/
  | requireGroups (g : List Byte)
  /-- The test of `letters_to_numbers(t)` (R143, R147). -/
  | requireLetters (t : List Byte)
  /-- GROUP_TO_LETTERS's test (R148). -/
  | requireCount (v : List Byte)
  /-- The battery exchange, whose shape is not in the source (R207). -/
  | batteryExchange
  deriving DecidableEq, Repr

/-- What the host does on the request port, the side-band status port and the reset line (R344), and
when: `proceed` lets SEQ run between two actions of the host. -/
inductive HostAction where
  /-- Present a request frame; it waits at the port until SEQ takes it (R90). -/
  | present (frame : List Byte)
  /-- Read status register `no` (R44). -/
  | readStatus (no : Byte)
  /-- Assert block reset (R360). -/
  | blockReset
  /-- Let SEQ run: at most `k` micro-steps of a request, or to its end (`none`). -/
  | proceed (k : Option Nat)
  deriving DecidableEq, Repr

/-- The machine. The first groups are SEQ's elements, all that R20 lists; the last two are the
environment's inputs to the model (log entries 4 and 5). -/
structure State where
  /-- MODE, status register 0x00 (R21). -/
  mode : Mode
  /-- FLAGS, status register 0x01 (R23). -/
  flags : Byte
  /-- ERRCODE, status register 0x02 (R29). -/
  errCode : FaultClass
  /-- ERRSUB, status register 0x03 (R30). -/
  errSub : Byte
  /-- ERR_EXPECTED, status register 0x04 (R31). -/
  errExpected : Word9
  /-- ERR_RECEIVED, status register 0x05 (R32). -/
  errReceived : Word9
  /-- ERR_CHAN, status register 0x06 (R33). -/
  errChan : Byte
  /-- ERR_CMD, status register 0x07 (R34). -/
  errCmd : Byte
  /-- CHAN_CTR, status register 0x08 (R35). -/
  chanCtr : Byte
  /-- TX_COUNT, status register 0x09 (R36). -/
  txCount : Word32
  /-- RX_COUNT, status register 0x0A (R37). -/
  rxCount : Word32
  /-- REC_BUF, byte offsets 0..31 (R38, R61). -/
  recBuf : Memory
  /-- CK_REG (R39). -/
  ckReg : Byte
  /-- ADDR_REG (R40). -/
  addrReg : Byte
  /-- WS, the import working set (R41). -/
  ws : WorkingSet
  /-- STEP (R42): the micro-steps of the request in progress still to be made, the next one first;
  empty is "await request". -/
  stepPtr : List Micro
  /-- The transcript since the last block reset, oldest first (R14, R45). -/
  transcript : List Event
  /-- The host response stream since the last block reset, oldest first (R45, R97). -/
  responses : List (List Byte)
  /-- The channel operand of the request in progress, 0 if it has none: what R33 puts into ERR_CHAN (log
  entry 9). -/
  reqChan : Byte
  /-- The request frames the host has presented and SEQ has not taken, oldest first (R90). -/
  port : List (List Byte)
  /-- What the host does next, in order; with none left SEQ runs on (R344). -/
  host : List HostAction
  /-- How many micro-steps SEQ makes before the host's next action; `none` is no limit. -/
  budget : Option Nat
  /-- The answers of the side-band status port, oldest first (R44). -/
  statusReads : List (Byte × Word32)
  /-- PEER's answers to the coming reads, in order; past them the answers are open (R9). -/
  peer : List (List Byte)
  /-- How many reads took an open answer. -/
  peerDraws : Nat
  /-- The outcomes of the coming openings, in order; past them they are open (R305). -/
  openings : List Bool
  /-- How many openings took an open outcome. -/
  openDraws : Nat
  deriving DecidableEq, Repr

/-- The machine right after block reset or power-on (R360), nothing presented and nothing scheduled.
REC_BUF, CK_REG and ADDR_REG have "no value" there in R360: they hold 0 (log entry 1). -/
def State.reset : State where
  mode := .closed
  flags := 0#8
  errCode := .none
  errSub := 0#8
  errExpected := 0#9
  errReceived := 0#9
  errChan := 0#8
  errCmd := 0#8
  chanCtr := 0#8
  txCount := 0#32
  rxCount := 0#32
  recBuf := []
  ckReg := 0#8
  addrReg := 0#8
  ws := []
  stepPtr := []
  transcript := []
  responses := []
  reqChan := 0#8
  port := []
  host := []
  budget := none
  statusReads := []
  peer := []
  peerDraws := 0
  openings := []
  openDraws := 0

/-- Why the model stops where the spec's machine has no such step. The faults the SPEC describes are
no stops: they are next states in MODE `faulted` (60_exceptions.md R330). -/
inductive Fault where
  /-- Raised by the micro-step `address` for a channel address outside 1..198: no such slot exists and
  SEQ never transmits such an address (20_memory.md R62, R73). Safe. -/
  | noSuchChannel
  /-- Raised by the micro-step `keyDown` for code 127, whose byte would be the key-up byte: never
  sent (R213). Safe. -/
  | keyCodeOutOfRange
  /-- Raised by the micro-step `loadFrame` for data that are not 32 bytes or a checksum byte that is
  not theirs: no such frame is ever transmitted (R132, R206). Safe. -/
  | badWriteFrame
  /-- Raised by a wire command outside a request in progress: each wire command is a step of a host
  request, which no host can issue directly (43_protocol.md, opening). Safe. -/
  | wireCommandOutsideRequest
  deriving DecidableEq, Repr

/-- Why the model has no meaning to give. -/
inductive Refusal where
  /-- An instruction that has no meaning yet, by its mnemonic. No arm of exec raises it. Safe. -/
  | notModelled (mnemonic : String)
  /-- Raised by W_BATTERY: the response's length, order and acknowledgement are not in the source and
  a model must not invent them (43_protocol.md R207). Safe. -/
  | batteryShapeUnknown
  deriving DecidableEq, Repr

end Sys2Proof.Machine
end

