-- ==== Sys2Proof/Machine/Flags.lean ====
section
/-! DEFINITION. FLAGS and MODE as the host reads them (10_state.md R21 to R28). -/

namespace Sys2Proof.Machine

/-- The bit of FLAGS a flag stands at (R23). -/
def flagBit : Flag → Nat
  | .radioDisabled => 0
  | .remoteActive => 1
  | .warnNameTrunc => 2
  | .lastEmpty => 3
  | .refusedMark => 4

/-- A flag's value. -/
def readFlag (f : Flag) (s : State) : Bool := s.flags.getLsbD (flagBit f)

/-- A flag made `b`, every other bit of FLAGS kept. -/
def writeFlag (f : Flag) (b : Bool) (s : State) : State := { s with flags := setBit s.flags (flagBit f) b }

/-- MODE's code, bits 7:3 being 0 (R21). -/
def modeCode : Mode → Byte
  | .closed => 0#8
  | .idle => 1#8
  | .busy => 2#8
  | .faulted => 3#8
  | .terminated => 4#8
  | .refused => 5#8

/-- The code of a fault class (60_exceptions.md R320). -/
def faultCode : FaultClass → Byte
  | .none => 0#8
  | .transportOpen => 1#8
  | .ackMismatch => 2#8
  | .emptyResponse => 3#8
  | .checksumMismatch => 4#8
  | .validation => 5#8
  | .internalEncoding => 6#8
  | .shortResponse => 7#8
  | .updateEmptySlot => 8#8
  | .illegalRequest => 9#8

/-- FAULTED or REFUSED: SEQ takes no step until block reset (60_exceptions.md R332, R334). -/
def halted (s : State) : Bool := s.mode == .faulted || s.mode == .refused

/-- A presented frame is taken now: no request is in progress and SEQ is not halted (R240). -/
def accepts (s : State) : Bool :=
  s.stepPtr.isEmpty && (s.mode == .closed || s.mode == .idle || s.mode == .terminated)

end Sys2Proof.Machine
end

