-- ==== Sys2Proof/Machine/Memory.lean ====
section
/-! DEFINITION. Byte-addressed storage: REC_BUF's 32 bytes (10_state.md R38; 20_memory.md R61). Every
rule writes the whole buffer (20_memory.md R63), so the one write is that of all its bytes. -/

namespace Sys2Proof.Machine

/-- What an address that is not listed reads as (log entry 1). -/
def unlistedByte : Byte := 0#8

/-- The byte at an address. -/
def Memory.read : Memory → Nat → Byte
  | [], _ => unlistedByte
  | (k, v) :: m, a => if k = a then v else Memory.read m a

/-- The cells of bytes laid out from address `a` on, those equal to an unlisted byte left out. -/
def Memory.cellsFrom : Nat → List Byte → Memory
  | _, [] => []
  | a, b :: bs => if b = unlistedByte then Memory.cellsFrom (a + 1) bs else (a, b) :: Memory.cellsFrom (a + 1) bs

/-- The storage that holds exactly these bytes, from address 0 on. -/
def Memory.ofBytes (bs : List Byte) : Memory := Memory.cellsFrom 0 bs

/-- The 32 bytes of REC_BUF in offset order. -/
def Memory.bytes (m : Memory) : List Byte := (List.range Config.recordBytes).map m.read

/-- Addresses strictly rising from `a` on and below the size, no entry equal to an unlisted byte. -/
def Memory.wfFrom : Nat → Memory → Bool
  | _, [] => true
  | a, (k, v) :: m => decide (a ≤ k) && decide (k < Config.recordBytes) && v != unlistedByte && Memory.wfFrom (k + 1) m

/-- The canonical form of REC_BUF. -/
def Memory.wf (m : Memory) : Bool := Memory.wfFrom 0 m

end Sys2Proof.Machine
end

