-- ==== Sys2Proof/Machine/Codec.lean ====
section
/-! DEFINITION. The group codec (41_group_codec.md R140 to R144) and the channel-record codec
(42_channel_record.md R160 to R172). -/

namespace Sys2Proof.Machine

/-! ### Groups -/

/-- `gdecode(b0, b1)` of R141, lowest nibble first. -/
def gdecode (b0 b1 : Byte) : Groups where
  g0 := b0.extractLsb' 0 4
  g1 := b0.extractLsb' 4 4
  g2 := b1.extractLsb' 0 4
  g3 := b1.extractLsb' 4 4

/-- `gencode(g)` of R142: `(byte0, byte1)`. -/
def gencode (g : Groups) : Byte × Byte := (g.g1 ++ g.g0, g.g3 ++ g.g2)

/-- The four slots of a list of group values, padded with "no group" (R142). -/
def padGroups (g : List Byte) : Groups where
  g0 := (byteAt g 0).setWidth 4
  g1 := (byteAt g 1).setWidth 4
  g2 := (byteAt g 2).setWidth 4
  g3 := (byteAt g 3).setWidth 4

/-- The four group values as bytes, `g0` first. -/
def groupBytes (g : Groups) : List Byte :=
  [g.g0.setWidth 8, g.g1.setWidth 8, g.g2.setWidth 8, g.g3.setWidth 8]

/-- The group value of a character, if it has one (R143). -/
def letterValue (c : Byte) : Option Byte :=
  if 0x41 ≤ c.toNat ∧ c.toNat ≤ 0x4F then some (c - 0x40#8)
  else if 0x61 ≤ c.toNat ∧ c.toNat ≤ 0x6F then some (c - 0x60#8)
  else if c = 0x30#8 then some 0#8
  else none

/-- Every character's group value, in order; `none` if one has none. -/
def letterValues : List Byte → Option (List Byte)
  | [] => some []
  | c :: t => (letterValue c).bind fun v => (letterValues t).map fun vs => v :: vs

/-- `letters_to_numbers(t)` of R143; `none` where validation fails. -/
def lettersToNumbers (t : List Byte) : Option (List Byte) :=
  if t.length ≤ Config.groupSlots then letterValues t else none

/-- The character of one value (R144): '0' for 0 and above 15. -/
def valueLetter (v : Byte) : Byte := if 1 ≤ v.toNat ∧ v.toNat ≤ 15 then 0x40#8 + v else 0x30#8

/-- `numbers_to_letters(v)` of R144. -/
def numbersToLetters (v : List Byte) : List Byte := v.map valueLetter

/-! ### Flags byte and name -/

/-- Bits 2:1 of the flags byte (R107, R162). -/
def modulationOf (b : BitVec 2) : Modulation :=
  match b.toNat with
  | 0 => .auto
  | 1 => .fm
  | 2 => .am
  | _ => .usb

/-- A modulation's value (R107). -/
def modulationCode : Modulation → BitVec 2
  | .auto => 0#2
  | .fm => 1#2
  | .am => 2#2
  | .usb => 3#2

/-- Bit 0 of the flags byte (R107, R163). -/
def bandwidthOf (b : Bool) : Bandwidth := if b then .narrow else .wide

/-- A bandwidth's value (R107). -/
def bandwidthCode : Bandwidth → BitVec 1
  | .wide => 0#1
  | .narrow => 1#1

/-- Byte 15 on encode (R166): the reserved bits 7:3 are 1. -/
def flagsByte (m : Modulation) (w : Bandwidth) : Byte :=
  0xF8#8 ||| ((modulationCode m).setWidth 8 <<< 1) ||| (bandwidthCode w).setWidth 8

/-- `strip0(t)` of R164: the trailing 0x00 bytes removed. -/
def strip0 : List Byte → List Byte
  | [] => []
  | b :: t =>
    match strip0 t with
    | [] => if b = 0#8 then [] else [b]
    | c :: u => b :: c :: u

/-! ### Records -/

/-- `rdecode(s)` of R161. -/
def rdecode (s : List Byte) : Record where
  rx := le32 s 0
  tx := le32 s 4
  rxt := le16 s 8
  txt := le16 s 10
  pwr := byteAt s 12
  g := gdecode (byteAt s 13) (byteAt s 14)
  modulation := modulationOf ((byteAt s 15).extractLsb' 1 2)
  bandwidth := bandwidthOf ((byteAt s 15).getLsbD 0)
  name := strip0 ((s.drop 20).take Config.nameBytes)

/-- `rencode(r)` of R165. -/
def rencode (r : Record) : List Byte :=
  bytesLE32 r.rx ++ bytesLE32 r.tx ++ bytesLE16 r.rxt ++ bytesLE16 r.txt ++
    [r.pwr, (gencode r.g).1, (gencode r.g).2, flagsByte r.modulation r.bandwidth,
      0xFF#8, 0xFF#8, 0xFF#8, 0xFF#8] ++
    (r.name ++ List.replicate (Config.nameBytes - r.name.length) 0#8)

/-- The erase pattern, and the empty-slot sentinel (R110, R244). -/
def emptySlot : List Byte := List.replicate Config.recordBytes 0xFF#8

/-- `is_empty(s)` of R170. -/
def isEmptyRecord (s : List Byte) : Bool := s.length == Config.recordBytes && s.all fun b => b == 0xFF#8

/-- The default record `DEF` of R172. -/
def defaultRecord : Record where
  rx := Config.defaultFreq
  tx := Config.defaultFreq
  rxt := 0#16
  txt := 0#16
  pwr := 0#8
  g := ⟨0#4, 0#4, 0#4, 0#4⟩
  modulation := .auto
  bandwidth := .narrow
  name := []

/-- The record descriptor of a record value (30_encoding.md R95). -/
def descriptorOf (r : Record) : RD where
  rx := r.rx
  tx := r.tx
  rxt := r.rxt
  txt := r.txt
  pwr := r.pwr
  g0 := r.g.g0.setWidth 8
  g1 := r.g.g1.setWidth 8
  g2 := r.g.g2.setWidth 8
  g3 := r.g.g3.setWidth 8
  modulation := (modulationCode r.modulation).setWidth 8
  bandwidth := (bandwidthCode r.bandwidth).setWidth 8
  name := r.name

/-- `RD(r)`: the bytes of a record value in a response (R98). -/
def recordRD (r : Record) : List Byte := encodeRD (descriptorOf r)

end Sys2Proof.Machine
end

