-- ==== Sys2Proof/WellFormed.lean ====
section
/-! DEFINITION. Which instruction terms have an encoding: counts fit their count byte (30_encoding.md
R91, R95), records have 32 bytes (R100), and a wire command has the operands SEQ can give it (43_protocol.md
R200 to R214). A host request may carry any operand VALUE: values are validated when it runs
(45_validation.md). -/

namespace Sys2Proof

/-- `K` and `L` are one-byte counts (R91). -/
def countFits {α : Type} (l : List α) : Bool := decide (l.length ≤ 255)

/-- An `RD`'s name length is one byte (R95). -/
def RD.wellFormed (rd : RD) : Bool := countFits rd.name

/-- A 32-byte operand (R100). -/
def recordSized (s : List Byte) : Bool := s.length == Config.recordBytes

/-- The channel addresses that exist (20_memory.md R62, R73). -/
def channelExists (n : Byte) : Bool := decide (1 ≤ n.toNat) && decide (n.toNat ≤ Config.numChannels)

/-- The term has an encoding, and for a wire command it is one SEQ can transmit. -/
def Instr.wellFormed : Instr → Bool
  | .wReadCh n => channelExists n
  | .wWriteCh n d c => channelExists n && recordSized d && c == Machine.checksum d
  | .wBattery => true
  | .wDisable => true
  | .wEnable => true
  | .wFlashOn => true
  | .wFlashOff => true
  | .wReset => true
  | .wRemoteStart => true
  | .wRemoteEnd => true
  | .wKeyDown c => c != 127#7
  | .wKeyUp => true
  | .get _ => true
  | .put _ rd => rd.wellFormed
  | .erase _ => true
  | .writeNew _ _ rd => rd.wellFormed
  | .update _ _ rd => rd.wellFormed
  | .exportAll => true
  | .importAll es => countFits es && es.all fun e => e.2.wellFormed
  | .sendKeys cs => countFits cs
  | .flashOn => true
  | .flashOff => true
  | .resetRadio => true
  | .readBattery => true
  | .openTransport => true
  | .checksum s => countFits s
  | .groupDecode _ _ => true
  | .groupEncode g => countFits g
  | .groupFromLetters t => countFits t
  | .groupToLetters v => countFits v
  | .recordDecode s => recordSized s
  | .recordEncode rd => rd.wellFormed
  | .isEmpty s => recordSized s

end Sys2Proof
end

