-- ==== Sys2Proof/Machine/Operands.lean ====
section
/-! DEFINITION. What the sequencer makes of a request's operands: the validators (45_validation.md),
the field mask (30_encoding.md R93), truncation (R285) and merge (42_channel_record.md R173). -/

namespace Sys2Proof.Machine

/-- The mask with every field supplied: `validate_all` is `validate_supplied` under it (R293). -/
def allFields : Word16 := 0x01FF#16

/-- Bit `i` of a mask: the field is supplied (R93). -/
def supplied (m : Word16) (i : Nat) : Bool := m.getLsbD i

/-- A frequency in its domain (R282). -/
def freqOk (f : Word32) : Bool := decide (Config.freqMin ≤ f.toNat) && decide (f.toNat ≤ Config.freqMax)

/-- A subtone in its domain (R283). -/
def toneOk (t : Word16) : Bool :=
  decide (t.toNat = 0) || (decide (Config.toneMin ≤ t.toNat) && decide (t.toNat ≤ Config.toneMax))

/-- A group value (R286). -/
def groupOk (v : Byte) : Bool := decide (v.toNat ≤ 15)

/-- The four group values of an `RD` (R286). -/
def groupsOk (rd : RD) : Bool := groupOk rd.g0 && groupOk rd.g1 && groupOk rd.g2 && groupOk rd.g3

/-- A modulation value (R288). -/
def modulationOk (v : Byte) : Bool := decide (v.toNat ≤ 3)

/-- A bandwidth value (R289). -/
def bandwidthOk (v : Byte) : Bool := decide (v.toNat ≤ 1)

/-- A key code (R290). -/
def keyOk (c : Byte) : Bool := decide (c.toNat ≤ 126)

/-- A channel number (R281). -/
def channelOk (n : Byte) : Bool := channelExists n

/-- The field checks in the order of R292: mask bit, field code, and whether the value passes. Every
power passes (R284); the name is never checked (R285). -/
def fieldChecks (rd : RD) : List (Nat × Byte × Bool) :=
  [(0, 2#8, freqOk rd.rx), (1, 3#8, freqOk rd.tx), (2, 4#8, toneOk rd.rxt), (3, 5#8, toneOk rd.txt),
    (4, 6#8, true), (5, 7#8, groupsOk rd), (6, 8#8, modulationOk rd.modulation),
    (7, 9#8, bandwidthOk rd.bandwidth)]

/-- The code of the first check that is supplied and fails. -/
def firstFailure (m : Word16) : List (Nat × Byte × Bool) → Option Byte
  | [] => none
  | (bit, code, ok) :: cs => if supplied m bit && !ok then some code else firstFailure m cs

/-- `validate_supplied(rd, M)` of R293: the field code it fails with, if it fails. -/
def fieldFailure (m : Word16) (rd : RD) : Option Byte := firstFailure m (fieldChecks rd)

/-- The name is supplied and longer than 12 bytes (R285). -/
def truncates (m : Word16) (rd : RD) : Bool := supplied m 8 && decide (Config.nameBytes < rd.name.length)

/-- The record value of an `RD`, its name truncated (R285, R293). -/
def recordOf (rd : RD) : Record where
  rx := rd.rx
  tx := rd.tx
  rxt := rd.rxt
  txt := rd.txt
  pwr := rd.pwr
  g := ⟨rd.g0.setWidth 4, rd.g1.setWidth 4, rd.g2.setWidth 4, rd.g3.setWidth 4⟩
  modulation := modulationOf (rd.modulation.setWidth 2)
  bandwidth := bandwidthOf (rd.bandwidth.getLsbD 0)
  name := rd.name.take Config.nameBytes

/-- The supplied value, or the base's. -/
def choose {α : Type} (b : Bool) (new old : α) : α := if b then new else old

/-- `merge(base, M, rd)` of R173. -/
def merge (base : Record) (m : Word16) (rd : RD) : Record where
  rx := choose (supplied m 0) (recordOf rd).rx base.rx
  tx := choose (supplied m 1) (recordOf rd).tx base.tx
  rxt := choose (supplied m 2) (recordOf rd).rxt base.rxt
  txt := choose (supplied m 3) (recordOf rd).txt base.txt
  pwr := choose (supplied m 4) (recordOf rd).pwr base.pwr
  g := choose (supplied m 5) (recordOf rd).g base.g
  modulation := choose (supplied m 6) (recordOf rd).modulation base.modulation
  bandwidth := choose (supplied m 7) (recordOf rd).bandwidth base.bandwidth
  name := choose (supplied m 8) (recordOf rd).name base.name

/-- A record value in the validation domains (R282 to R285), as WS holds (10_state.md R41). -/
def recordOk (r : Record) : Bool :=
  freqOk r.rx && freqOk r.tx && toneOk r.rxt && toneOk r.txt && decide (r.name.length ≤ Config.nameBytes)

/-! ### The working set (10_state.md R41; 20_memory.md R64) -/

/-- `WS[n]`. -/
def wsLookup (n : Byte) : WorkingSet → Option Record
  | [] => none
  | (k, r) :: w => if k = n then some r else wsLookup n w

/-- `WS[n] <- r`, the entries kept in channel order. -/
def wsInsert (n : Byte) (r : Record) : WorkingSet → WorkingSet
  | [] => [(n, r)]
  | (k, q) :: w =>
    if n.toNat < k.toNat then (n, r) :: (k, q) :: w
    else if n = k then (n, r) :: w
    else (k, q) :: wsInsert n r w

/-- `WS[n] <- absent`. -/
def wsErase (n : Byte) : WorkingSet → WorkingSet
  | [] => []
  | (k, r) :: w => if k = n then wsErase n w else (k, r) :: wsErase n w

/-- Channels strictly rising above `a`, all of them 1..198, and every record validated. -/
def wsWfAbove : Nat → WorkingSet → Bool
  | _, [] => true
  | a, (k, r) :: w => decide (a < k.toNat) && channelOk k && recordOk r && wsWfAbove k.toNat w

/-- The canonical form of WS. -/
def workingSetWf (w : WorkingSet) : Bool := wsWfAbove 0 w

end Sys2Proof.Machine
end

