-- ==== Sys2Proof/Machine/Ops.lean ====
section
/-! DEFINITION. The named operations: the pseudocode primitives (00_scope.md R13), fault entry
(60_exceptions.md R330) and refusal (R334), the responses (30_encoding.md R97 to R99), the status port
(10_state.md R44) and block reset (70_reset_and_hazards.md R360), which alone leads back from a fault
(60_exceptions.md R332). -/

namespace Sys2Proof.Machine

/-! ### Transport -/

/-- `TX(b)` (R13, R36). It cannot fail. -/
def tx (b : Byte) (s : State) : State :=
  { s with transcript := s.transcript ++ [.tx b], txCount := s.txCount + 1#32 }

/-- `DWELL` (R13, R339). -/
def dwell (s : State) : State := { s with transcript := s.transcript ++ [.dwell] }

/-- What PEER returns to the next read of up to `n` bytes: the answer the state lists, or an open one
(R9); never more than `n` bytes. -/
def peerBytes (n : Nat) (s : State) : List Byte :=
  match s.peer with
  | a :: _ => a.take n
  | [] => (Config.peerAnswer s.peerDraws).take n

/-- The environment once that answer is used up. -/
def peerUsed (s : State) : State :=
  { s with peer := s.peer.tail, peerDraws := if s.peer.isEmpty then s.peerDraws + 1 else s.peerDraws }

/-- The state after `RX(n)` (R13, R37). -/
def rxState (n : Nat) (s : State) : State :=
  { peerUsed s with
    transcript := s.transcript ++ [.rx n (peerBytes n s)]
    rxCount := s.rxCount + BitVec.ofNat 32 (peerBytes n s).length }

/-! ### Responses, faults, refusals -/

/-- `out(item)` (R13, R45). -/
def out (item : List Byte) (s : State) : State := { s with responses := s.responses ++ [item] }

/-- What a fault latches beside its class (R330). -/
structure FaultInfo where
  sub : Byte := 0#8
  expected : Option Byte := none
  received : Option Byte := none
  chan : Byte := 0#8
  cmd : Byte := 0#8
  deriving DecidableEq, Repr

/-- A latched byte: 0 for no value, else `0x100 | byte` (R330). -/
def latched : Option Byte → Word9
  | none => 0#9
  | some b => 0x100#9 ||| b.setWidth 9

/-- The fault frame of R99. -/
def faultFrame (c : FaultClass) (i : FaultInfo) : List Byte :=
  [0x80#8 ||| faultCode c, i.sub,
    ((latched i.expected).extractLsb' 8 1).setWidth 8, (latched i.expected).extractLsb' 0 8,
    ((latched i.received).extractLsb' 8 1).setWidth 8, (latched i.received).extractLsb' 0 8,
    i.chan, i.cmd]

/-- Fault entry, `raise F(info)` of R330. STEP is frozen by the sequencer (`Threaded.stopped`). -/
def raise (c : FaultClass) (i : FaultInfo) (s : State) : State :=
  out (faultFrame c i)
    { s with
      errCode := c
      errSub := i.sub
      errExpected := latched i.expected
      errReceived := latched i.received
      errChan := i.chan
      errCmd := i.cmd
      mode := .faulted }

/-- ILLEGAL_REQUEST with its reason (R329). -/
def illegalRequest (reason : Byte) (s : State) : State := raise .illegalRequest { sub := reason } s

/-- `VALIDATION(field, chan)` (R280). -/
def invalid (field chan : Byte) (s : State) : State := raise .validation { sub := field, chan := chan } s

/-- `refuse(reason)` of R334. -/
def refuse (s : State) : State :=
  out [0xFE#8] { writeFlag .refusedMark true s with mode := .refused }

/-- The status byte `ST` of a success response (R97). -/
def statusByte (s : State) : Byte := if readFlag .warnNameTrunc s then 0x01#8 else 0x00#8

/-! ### Registers -/

/-- `REC_BUF` given 32 bytes (R38). -/
def loadRecord (d : List Byte) (s : State) : State := { s with recBuf := Memory.ofBytes d }

/-- The 32 bytes of `REC_BUF`. -/
def recordBytes (s : State) : List Byte := s.recBuf.bytes

/-- `REC_BUF <- rencode(r)`: 32 bytes, of an encoding that were longer the first 32 (R38, R165). -/
def storeEncoded (r : Record) (s : State) : State := loadRecord ((rencode r).take Config.recordBytes) s

/-- The length check of R169; ERR_CHAN is the request's channel. -/
def checkEncoded (r : Record) (s : State) : State :=
  if (rencode r).length = Config.recordBytes then s else raise .internalEncoding { chan := s.reqChan } s

/-- `FLAGS.WARN_NAME_TRUNC` after a validation that may truncate (R285): set, or left as it was. -/
def noteTruncation (b : Bool) (s : State) : State := if b then writeFlag .warnNameTrunc true s else s

/-- The checks of `validate_supplied(rd, M)` for channel `n` (R293). -/
def validateFields (n : Byte) (m : Word16) (rd : RD) (s : State) : State :=
  match fieldFailure m rd with
  | some code => invalid code n s
  | none => s

/-- A test that raises VALIDATION(field, chan) unless it passes (R280). -/
def require (ok : Bool) (field chan : Byte) (s : State) : State := if ok then s else invalid field chan s

/-- `r`, what the read just made returned: no micro-step stands between an `RX` and the uses of its
result, so it is the last event of the transcript. -/
def lastRead (s : State) : List Byte :=
  match s.transcript.getLast? with
  | some (.rx _ r) => r
  | _ => []

/-- The two tests of `ACK(e)` on what was read (R201). -/
def checkAck (e : Byte) (s : State) : State :=
  match lastRead s with
  | [] => raise .ackMismatch { expected := some e, chan := s.reqChan, cmd := e } s
  | b :: _ =>
    if b = e then s
    else raise .ackMismatch { expected := some e, received := some b, chan := s.reqChan, cmd := e } s

/-- The first two tests of `check_read(r)` (R205). -/
def checkLength (s : State) : State :=
  if (lastRead s).length = 0 then raise .emptyResponse { chan := s.reqChan, cmd := 0x30#8 } s
  else if (lastRead s).length < 33 then
    raise .shortResponse { sub := BitVec.ofNat 8 (lastRead s).length, chan := s.reqChan, cmd := 0x30#8 } s
  else s

/-- The last test of `check_read(r)`, CK_REG holding the checksum of the data (R205). -/
def checkSum (s : State) : State :=
  if s.ckReg = byteAt (lastRead s) 32 then s
  else
    raise .checksumMismatch
      { expected := some s.ckReg, received := some (byteAt (lastRead s) 32), chan := s.reqChan, cmd := 0x30#8 } s

/-- `WS[n] <- ` the record of `rd` (R248). An entry is a validated record of one of the channels (R41), so
nothing else is ever put there. -/
def setEntry (n : Byte) (rd : RD) (s : State) : State :=
  if channelOk n && (fieldFailure allFields rd).isNone then { s with ws := wsInsert n (recordOf rd) s.ws } else s

/-- The outcome of the next opening: the one the state lists, or an open one (R305). -/
def openingOk (s : State) : Bool :=
  match s.openings with
  | o :: _ => o
  | [] => Config.openAnswer Config.serialPort s.openDraws

/-- The environment once that outcome is used up. -/
def openingUsed (s : State) : State :=
  { s with openings := s.openings.tail, openDraws := if s.openings.isEmpty then s.openDraws + 1 else s.openDraws }

/-! ### The status port and block reset -/

/-- Status register `no` as the side-band port reads it (10_state.md section 2, R44). -/
def statusRegister (no : Byte) (s : State) : Word32 :=
  match no.toNat with
  | 0x00 => (modeCode s.mode).setWidth 32
  | 0x01 => s.flags.setWidth 32
  | 0x02 => (faultCode s.errCode).setWidth 32
  | 0x03 => s.errSub.setWidth 32
  | 0x04 => s.errExpected.setWidth 32
  | 0x05 => s.errReceived.setWidth 32
  | 0x06 => s.errChan.setWidth 32
  | 0x07 => s.errCmd.setWidth 32
  | 0x08 => s.chanCtr.setWidth 32
  | 0x09 => s.txCount
  | 0x0A => s.rxCount
  | _ => 0#32

/-- Block reset (R360): every element of SEQ as after reset. What the host and PEER hold is not SEQ's
and stays (R361), but for the frames at the port of a SEQ that is FAULTED or REFUSED: they are never
accepted (R240). That the frames at the port of any other SEQ stay is the model's choice (log entry 5). -/
def blockReset (s : State) : State :=
  { State.reset with
    port := if halted s then [] else s.port
    host := s.host
    budget := s.budget
    statusReads := s.statusReads
    peer := s.peer
    peerDraws := s.peerDraws
    openings := s.openings
    openDraws := s.openDraws }

end Sys2Proof.Machine
end

