-- ==== Sys2Proof/Machine/Sequencer.lean ====
section
/-! DEFINITION. STEP (10_state.md R42): what each micro-step does, how a list of them runs, how a
request is accepted (44_channel_store.md R240) and carried on. -/

namespace Sys2Proof.Machine

/-- One micro-step; `s` is the state it finds. A fault of SEQ is a next state in MODE `faulted`. Where a
test and what it guards are one micro-step is the model's choice (log entry 2). -/
def perform : Micro → State → Host.Outcome State Fault Refusal
  | .localValue, s => .next s
  | .rejectFrame reason, s => .next (illegalRequest reason s)
  | .clearWarning, s => .next (writeFlag .warnNameTrunc false s)
  | .admitTransport, s =>
    .next (if s.mode = .closed then illegalRequest 2#8 s
      else if s.mode = .terminated then illegalRequest 3#8 s
      else s)
  | .admitOpen, s => .next (if s.mode = .closed then s else illegalRequest 4#8 s)
  | .begin, s => .next { s with mode := .busy }
  | .refuseBattery, s => .next (refuse s)
  | .tx b, s => .next (tx b s)
  | .txRec i, s => .next (tx (s.recBuf.read i.val) s)
  | .txCheck, s => .next (tx s.ckReg s)
  | .readAck, s => .next (rxState 1 s)
  | .checkAck e, s => .next (checkAck e s)
  | .readRecord, s => .next (rxState 33 s)
  | .checkLength, s => .next (checkLength s)
  | .sumResponse, s => .next { s with ckReg := checksum ((lastRead s).take 32) }
  | .checkSum, s => .next (checkSum s)
  | .takeRecord, s => .next (loadRecord ((lastRead s).take 32) s)
  | .dwell, s => .next (dwell s)
  | .keyDown c, s => if c = 127#7 then .fault .keyCodeOutOfRange else .next (tx (0x80#8 ||| c.setWidth 8) s)
  | .radioDisabled b, s => .next (writeFlag .radioDisabled b s)
  | .remoteActive b, s => .next (writeFlag .remoteActive b s)
  | .address n, s => if channelExists n then .next { s with addrReg := n } else .fault .noSuchChannel
  | .sumRecord, s => .next { s with ckReg := checksum (recordBytes s) }
  | .validateChannel n, s => .next (require (channelOk n) 1#8 n s)
  | .validateFields n m rd, s => .next (validateFields n m rd s)
  | .noteTruncation long, s => .next (noteTruncation long s)
  | .validateKeys cs, s => .next (require (cs.all keyOk) 11#8 0#8 s)
  | .encode r, s => .next (storeEncoded r s)
  | .checkEncoded r, s => .next (checkEncoded r s)
  | .encodeMerged m rd, s => .next (storeEncoded (merge (rdecode (recordBytes s)) m rd) s)
  | .checkMerged m rd, s => .next (checkEncoded (merge (rdecode (recordBytes s)) m rd) s)
  | .fillEmpty, s => .next (loadRecord emptySlot s)
  | .loadFrame d c, s =>
    if recordSized d && c == checksum d then .next (loadRecord d s) else .fault .badWriteFrame
  | .noteEmpty, s => .next (writeFlag .lastEmpty (isEmptyRecord (recordBytes s)) s)
  | .requireSlot n, s => .next (if isEmptyRecord (recordBytes s) then raise .updateEmptySlot { chan := n } s else s)
  | .setChanCtr n, s => .next { s with chanCtr := n, reqChan := n }
  | .exportItem, s =>
    .next (if isEmptyRecord (recordBytes s) then s
      else out (0xA0#8 :: s.chanCtr :: recordRD (rdecode (recordBytes s))) s)
  | .clearEntry j, s => .next { s with ws := wsErase j s.ws }
  | .requireAbsent n, s => .next (require (wsLookup n s.ws).isNone 10#8 n s)
  | .setEntry n rd, s => .next (setEntry n rd s)
  | .importSlot n, s =>
    .next (match wsLookup n s.ws with
      | some r => storeEncoded r s
      | none => loadRecord emptySlot s)
  | .checkSlot n, s =>
    .next (match wsLookup n s.ws with
      | some r => checkEncoded r s
      | none => s)
  | .requireOpen, s => .next (if openingOk s then openingUsed s else raise .transportOpen {} (openingUsed s))
  | .complete terminal, s => .next { s with mode := if terminal then .terminated else .idle }
  | .respond, s => .next (out [statusByte s] s)
  | .respondGet, s =>
    .next (if isEmptyRecord (recordBytes s) then out [statusByte s, 0x01#8] s
      else out (statusByte s :: 0x00#8 :: recordRD (rdecode (recordBytes s))) s)
  | .respondRecord, s => .next (out (statusByte s :: recordBytes s) s)
  | .emit item, s => .next (out item s)
  | .setCheck c, s => .next { s with ckReg := c }
  | .setLastEmpty e, s => .next (writeFlag .lastEmpty e s)
  | .requireGroups g, s => .next (require (decide (g.length ≤ Config.groupSlots) && g.all groupOk) 7#8 0#8 s)
  | .requireLetters t, s => .next (require (lettersToNumbers t).isSome 7#8 0#8 s)
  | .requireCount v, s => .next (require (decide (v.length ≤ Config.groupSlots)) 7#8 0#8 s)
  | .batteryExchange, _ => .refused .batteryShapeUnknown

/-- `ACK(e)` (R201). -/
def ackOps (e : Byte) : List Micro := [.readAck, .checkAck e]

/-- `r <- RX(33); check_read(r); REC_BUF <- r[0..32]` (R204, R205). -/
def responseOps : List Micro := [.readRecord, .checkLength, .sumResponse, .checkSum, .takeRecord]

/-- `validate_supplied(rd, M)` for channel `n`: the checks, then the truncation of the name (R293). -/
def validateOps (n : Byte) (m : Word16) (rd : RD) : List Micro :=
  [.validateFields n m rd, .noteTruncation (truncates m rd)]

/-- `REC_BUF <- rencode(r); check length = 32` (R165, R169). -/
def encodeOps (r : Record) : List Micro := [.encode r, .checkEncoded r]

/-- `e <- is_empty(REC_BUF); FLAGS.LAST_EMPTY <- e` (R242). -/
def emptyOps : List Micro := [.localValue, .noteEmpty]

/-- How a list of micro-steps ends. -/
inductive Threaded where
  /-- All of them were made. -/
  | ran (s : State)
  /-- SEQ halted: what STEP is left at. -/
  | stopped (s : State) (frozen : List Micro)
  | fault (f : Fault)
  | refused (r : Refusal)
  deriving Repr

/-- What STEP is left at when `op` halts SEQ: a fault freezes it at the micro-step that raised it
(60_exceptions.md R330); a refusal ends the request, nothing of which is left (log entry 14). -/
def frozenAt (op : Micro) (ops : List Micro) (s : State) : List Micro :=
  if s.mode = .faulted then op :: ops else ops

/-- The micro-steps of a list, in order, until one halts SEQ: nothing of the request runs after it
(60_exceptions.md R331). -/
def thread : List Micro → State → Threaded
  | [], s => .ran s
  | op :: ops, s =>
    match perform op s with
    | .next s' => if halted s' then .stopped s' (frozenAt op ops s') else thread ops s'
    | .fault f => .fault f
    | .refused r => .refused r

/-- The outcome, STEP being left at what was not run. -/
def settle : Threaded → Host.Outcome State Fault Refusal
  | .ran s => .next s
  | .stopped s frozen => .next { s with stepPtr := frozen ++ s.stepPtr }
  | .fault f => .fault f
  | .refused r => .refused r

/-- The request in progress carried on: `k` micro-steps if the host acts again after `k`, all of them
otherwise (60_exceptions.md R344; 70_reset_and_hazards.md R375). -/
def advance (s : State) : Host.Outcome State Fault Refusal :=
  match s.budget with
  | none => settle (thread s.stepPtr { s with stepPtr := [] })
  | some k => settle (thread (s.stepPtr.take k) { s with stepPtr := s.stepPtr.drop k, budget := none })

/-- Acceptance of any request, its frame being whole: `REQ <- f[0]; FLAGS.WARN_NAME_TRUNC <- 0` (R240). -/
def acceptOps : List Micro := [.localValue, .clearWarning]

/-- A request taken where SEQ takes one: `chan` is its channel operand (0 if none), `ops` what follows
its acceptance. Where SEQ takes no frame (BUSY, FAULTED, REFUSED) there is no step (R240). -/
def takeRequest (chan : Byte) (ops : List Micro) (s : State) : Host.Outcome State Fault Refusal :=
  if accepts s then advance { s with reqChan := chan, stepPtr := acceptOps ++ ops } else .next s

/-- A pure request: `run its rule; MODE unchanged` (R240). -/
def runPure (ops : List Micro) (s : State) : Host.Outcome State Fault Refusal := takeRequest 0#8 ops s

/-- OPEN: only where MODE is CLOSED (R240). -/
def runOpen (ops : List Micro) (s : State) : Host.Outcome State Fault Refusal :=
  takeRequest 0#8 (.admitOpen :: ops) s

/-- A transport request: not in CLOSED or TERMINATED, and then `MODE <- BUSY; run its rule` (R240). -/
def runRequest (chan : Byte) (ops : List Micro) (s : State) : Host.Outcome State Fault Refusal :=
  takeRequest chan (.admitTransport :: .begin :: ops) s

/-- A wire command run as the next thing of the request in progress: its micro-steps stand before
those still to be made (R42). Any state in BUSY will do, wherever STEP stands. So it may run a channel
command with RADIO_DISABLED = 0 (R218), or between a TX and its RX or an RX and its check, where it
interleaves two exchanges (R10) and changes what `lastRead` gives the pending check. No request of SEQ does
either: that the model goes ahead is its choice (log entry 6). -/
def runWire (ops : List Micro) (s : State) : Host.Outcome State Fault Refusal :=
  if s.mode = .busy then settle (thread ops s) else .fault .wireCommandOutsideRequest

end Sys2Proof.Machine
end

