-- ==== Sys2Proof/Machine/Pure.lean ====
section
/-! DEFINITION. The pure requests: CHECKSUM (40_checksum.md), the group codec (41_group_codec.md) and
the record codec (42_channel_record.md). -/

namespace Sys2Proof.Machine

/-- CHECKSUM's pseudocode (R131). -/
def checksumOps (d : List Byte) : List Micro :=
  [.localValue, .setCheck (checksum d), .emit [0x00#8, checksum d]]

/-- GROUP_DECODE's pseudocode (R145). -/
def groupDecodeOps (b0 b1 : Byte) : List Micro := [.localValue, .emit (0x00#8 :: groupBytes (gdecode b0 b1))]

/-- GROUP_ENCODE's pseudocode (R146). -/
def groupEncodeOps (g : List Byte) : List Micro :=
  [.requireGroups g, .localValue, .emit [0x00#8, (gencode (padGroups g)).1, (gencode (padGroups g)).2]]

/-- GROUP_FROM_LETTERS's pseudocode (R147). -/
def groupFromLettersOps (t : List Byte) : List Micro :=
  [.requireLetters t, .localValue, .emit (0x00#8 :: encodeCounted ((lettersToNumbers t).getD []))]

/-- GROUP_TO_LETTERS's pseudocode (R148). -/
def groupToLettersOps (v : List Byte) : List Micro :=
  [.requireCount v, .localValue, .emit (0x00#8 :: encodeCounted (numbersToLetters v))]

/-- RECORD_DECODE's pseudocode (R174): no empty test and no validation. -/
def recordDecodeOps (d : List Byte) : List Micro := [.localValue, .emit (0x00#8 :: recordRD (rdecode d))]

/-- RECORD_ENCODE's pseudocode (R175). -/
def recordEncodeOps (rd : RD) : List Micro :=
  validateOps 0#8 allFields rd ++ [.localValue] ++ encodeOps (recordOf rd) ++ [.respondRecord]

/-- IS_EMPTY's pseudocode (R176). -/
def isEmptyOps (d : List Byte) : List Micro :=
  [.localValue, .setLastEmpty (isEmptyRecord d), .emit [0x00#8, if isEmptyRecord d then 0x01#8 else 0x00#8]]

/-- CHECKSUM, request 0x10 (R131). -/
def execChecksum (d : List Byte) (s : State) : Host.Outcome State Fault Refusal := runPure (checksumOps d) s

/-- GROUP_DECODE, request 0x11 (R145). -/
def execGroupDecode (b0 b1 : Byte) (s : State) : Host.Outcome State Fault Refusal :=
  runPure (groupDecodeOps b0 b1) s

/-- GROUP_ENCODE, request 0x12 (R146). -/
def execGroupEncode (g : List Byte) (s : State) : Host.Outcome State Fault Refusal :=
  runPure (groupEncodeOps g) s

/-- GROUP_FROM_LETTERS, request 0x13 (R147). -/
def execGroupFromLetters (t : List Byte) (s : State) : Host.Outcome State Fault Refusal :=
  runPure (groupFromLettersOps t) s

/-- GROUP_TO_LETTERS, request 0x14 (R148). -/
def execGroupToLetters (v : List Byte) (s : State) : Host.Outcome State Fault Refusal :=
  runPure (groupToLettersOps v) s

/-- RECORD_DECODE, request 0x15 (R174). -/
def execRecordDecode (d : List Byte) (s : State) : Host.Outcome State Fault Refusal :=
  runPure (recordDecodeOps d) s

/-- RECORD_ENCODE, request 0x16 (R175). -/
def execRecordEncode (rd : RD) (s : State) : Host.Outcome State Fault Refusal :=
  runPure (recordEncodeOps rd) s

/-- IS_EMPTY, request 0x17 (R176). -/
def execIsEmpty (d : List Byte) (s : State) : Host.Outcome State Fault Refusal := runPure (isEmptyOps d) s

end Sys2Proof.Machine
end

