-- ==== Sys2Proof/Machine/WireChannel.lean ====
section
/-! DEFINITION. The wire commands of a channel access (43_protocol.md sections 2, 3 and 5): the radio
bracket, read channel and write channel. -/

namespace Sys2Proof.Machine

/-- W_DISABLE (R202). -/
def wDisable : List Micro := [.tx 0x45#8] ++ ackOps 0x45#8 ++ [.radioDisabled true]

/-- W_ENABLE (R203). -/
def wEnable : List Micro := [.tx 0x46#8] ++ ackOps 0x46#8 ++ [.radioDisabled false]

/-- W_READ_CH (R204). -/
def wReadCh (n : Byte) : List Micro := [.address n, .tx 0x30#8, .tx n] ++ responseOps

/-- The 32 data bytes of REC_BUF, offset 0 first (R206). -/
def txRecord : List Micro := (List.finRange 32).map .txRec

/-- W_WRITE_CH, the data being in REC_BUF (R206). -/
def wWriteCh (n : Byte) : List Micro :=
  [.address n, .sumRecord, .tx 0x31#8, .tx n] ++ txRecord ++ [.txCheck] ++ ackOps 0x31#8

/-- W_WRITE_CH from a whole frame: its data brought into REC_BUF first (log entry 7). -/
def wWriteFrame (n : Byte) (d : List Byte) (c : Byte) : List Micro := .loadFrame d c :: wWriteCh n

/-- `BRACKET_READ(n)` (R216). -/
def bracketRead (n : Byte) : List Micro := wDisable ++ wReadCh n ++ wEnable

/-- `BRACKET_WRITE(n)` (R217). -/
def bracketWrite (n : Byte) : List Micro := wDisable ++ wWriteCh n ++ wEnable

/-- W_READ_CH, opcode 0x30 (R204, R205). -/
def execWReadCh (n : Byte) (s : State) : Host.Outcome State Fault Refusal := runWire (wReadCh n) s

/-- W_WRITE_CH, opcode 0x31 (R206). -/
def execWWriteCh (n : Byte) (d : List Byte) (c : Byte) (s : State) : Host.Outcome State Fault Refusal :=
  runWire (wWriteFrame n d c) s

/-- W_DISABLE, opcode 0x45 (R202). -/
def execWDisable (s : State) : Host.Outcome State Fault Refusal := runWire wDisable s

/-- W_ENABLE, opcode 0x46 (R203). -/
def execWEnable (s : State) : Host.Outcome State Fault Refusal := runWire wEnable s

end Sys2Proof.Machine
end

