-- ==== Sys2Proof/Machine/WireOther.lean ====
section
/-! DEFINITION. The other wire commands (43_protocol.md section 4): flashlight, reset, remote session
and key presses, and the battery read. -/

namespace Sys2Proof.Machine

/-- W_BATTERY (R207): its exchange is not in the source. -/
def wBattery : List Micro := [.batteryExchange]

/-- W_FLASH_ON (R208). -/
def wFlashOn : List Micro := [.tx 0x47#8]

/-- W_FLASH_OFF (R209). -/
def wFlashOff : List Micro := [.tx 0x48#8]

/-- W_RESET (R210). -/
def wReset : List Micro := [.tx 0x49#8]

/-- W_REMOTE_START (R211). -/
def wRemoteStart : List Micro := [.tx 0x4A#8] ++ ackOps 0x4A#8 ++ [.remoteActive true]

/-- W_REMOTE_END (R212). -/
def wRemoteEnd : List Micro := [.tx 0x4B#8] ++ ackOps 0x4B#8 ++ [.remoteActive false]

/-- W_KEY_DOWN (R213). The dwell after it is `KEY`'s (R215; log entry 8). -/
def wKeyDown (c : BitVec 7) : List Micro := [.keyDown c]

/-- W_KEY_UP (R214). The dwell after it is `KEY`'s (R215; log entry 8). -/
def wKeyUp : List Micro := [.tx Config.keyRelease]

/-- `KEY(c)` (R215): both dwells are required. -/
def keyPress (c : BitVec 7) : List Micro := wKeyDown c ++ [.dwell] ++ wKeyUp ++ [.dwell]

/-- W_BATTERY, opcode 0x32 (R207): no meaning to give. -/
def execWBattery (_s : State) : Host.Outcome State Fault Refusal := .refused .batteryShapeUnknown

/-- W_FLASH_ON, opcode 0x47 (R208). -/
def execWFlashOn (s : State) : Host.Outcome State Fault Refusal := runWire wFlashOn s

/-- W_FLASH_OFF, opcode 0x48 (R209). -/
def execWFlashOff (s : State) : Host.Outcome State Fault Refusal := runWire wFlashOff s

/-- W_RESET, opcode 0x49 (R210). The request that sends it ends in TERMINATED. -/
def execWReset (s : State) : Host.Outcome State Fault Refusal := runWire wReset s

/-- W_REMOTE_START, opcode 0x4A (R211). -/
def execWRemoteStart (s : State) : Host.Outcome State Fault Refusal := runWire wRemoteStart s

/-- W_REMOTE_END, opcode 0x4B (R212). -/
def execWRemoteEnd (s : State) : Host.Outcome State Fault Refusal := runWire wRemoteEnd s

/-- W_KEY_DOWN, byte `0x80 | c` (R213). -/
def execWKeyDown (c : BitVec 7) (s : State) : Host.Outcome State Fault Refusal := runWire (wKeyDown c) s

/-- W_KEY_UP, byte 0xFF (R214). -/
def execWKeyUp (s : State) : Host.Outcome State Fault Refusal := runWire wKeyUp s

end Sys2Proof.Machine
end

