-- ==== Sys2Proof/Machine/ChannelStore.lean ====
section
/-! DEFINITION. The channel store requests (44_channel_store.md): single-channel (R242 to R246) and
bulk (R247 to R250). -/

namespace Sys2Proof.Machine

/-- A request's end: MODE to IDLE, then the status byte (R241). -/
def finishIdle : List Micro := [.complete false, .respond]

/-- A request's end where it sent the radio's reset: MODE to TERMINATED, then the status byte (R241). -/
def finishTerminated : List Micro := [.complete true, .respond]

/-- GET's pseudocode (R242). -/
def getOps (n : Byte) : List Micro :=
  [.validateChannel n] ++ bracketRead n ++ emptyOps ++ [.complete false, .respondGet]

/-- PUT's pseudocode (R243). -/
def putOps (n : Byte) (rd : RD) : List Micro :=
  [.validateChannel n] ++ validateOps n allFields rd ++ [.localValue] ++ encodeOps (recordOf rd) ++ bracketWrite n ++
    finishIdle

/-- ERASE's pseudocode (R244). -/
def eraseOps (n : Byte) : List Micro := [.validateChannel n, .fillEmpty] ++ bracketWrite n ++ finishIdle

/-- WRITE_NEW's pseudocode (R245). -/
def writeNewOps (n : Byte) (m : Word16) (rd : RD) : List Micro :=
  [.validateChannel n] ++ validateOps n m rd ++ [.localValue] ++ encodeOps (merge defaultRecord m rd) ++
    bracketWrite n ++ finishIdle

/-- UPDATE's pseudocode (R246). -/
def updateOps (n : Byte) (m : Word16) (rd : RD) : List Micro :=
  [.validateChannel n] ++ validateOps n m rd ++ bracketRead n ++ emptyOps ++
    [.requireSlot n, .localValue, .localValue, .encodeMerged m rd, .checkMerged m rd] ++ bracketWrite n ++ finishIdle

/-- The channel numbers 1..198 in ascending order (R247, R249). -/
def channels : List Byte := (List.range Config.numChannels).map fun i => BitVec.ofNat 8 (i + 1)

/-- EXPORT_ALL's loop body (R247). -/
def exportChannel (n : Byte) : List Micro := [.setChanCtr n] ++ bracketRead n ++ emptyOps ++ [.exportItem]

/-- EXPORT_ALL's pseudocode (R247). -/
def exportOps : List Micro := channels.flatMap exportChannel ++ finishIdle

/-- One entry of IMPORT_ALL's validation phase (R248). -/
def importEntry (e : Byte × RD) : List Micro :=
  [.validateChannel e.1, .requireAbsent e.1] ++ validateOps e.1 allFields e.2 ++ [.setEntry e.1 e.2]

/-- IMPORT_ALL's validation phase (R248). -/
def importCheck (entries : List (Byte × RD)) : List Micro :=
  channels.map .clearEntry ++ entries.flatMap importEntry

/-- The body of IMPORT_ALL's write loop (R249). -/
def importChannel (n : Byte) : List Micro := [.setChanCtr n, .importSlot n, .checkSlot n] ++ bracketWrite n

/-- IMPORT_ALL's pseudocode: validation (R248), write phase (R249), final reset (R250). -/
def importOps (entries : List (Byte × RD)) : List Micro :=
  importCheck entries ++ channels.flatMap importChannel ++ wReset ++ finishTerminated

/-- GET, request 0x01 (R242). -/
def execGet (n : Byte) (s : State) : Host.Outcome State Fault Refusal := runRequest n (getOps n) s

/-- PUT, request 0x02 (R243). -/
def execPut (n : Byte) (rd : RD) (s : State) : Host.Outcome State Fault Refusal := runRequest n (putOps n rd) s

/-- ERASE, request 0x03 (R244). -/
def execErase (n : Byte) (s : State) : Host.Outcome State Fault Refusal := runRequest n (eraseOps n) s

/-- WRITE_NEW, request 0x04 (R245). -/
def execWriteNew (n : Byte) (m : Word16) (rd : RD) (s : State) : Host.Outcome State Fault Refusal :=
  runRequest n (writeNewOps n m rd) s

/-- UPDATE, request 0x05 (R246). -/
def execUpdate (n : Byte) (m : Word16) (rd : RD) (s : State) : Host.Outcome State Fault Refusal :=
  runRequest n (updateOps n m rd) s

/-- EXPORT_ALL, request 0x06 (R247). -/
def execExportAll (s : State) : Host.Outcome State Fault Refusal := runRequest 0#8 exportOps s

/-- IMPORT_ALL, request 0x07 (R248 to R250). -/
def execImportAll (entries : List (Byte × RD)) (s : State) : Host.Outcome State Fault Refusal :=
  runRequest 0#8 (importOps entries) s

end Sys2Proof.Machine
end

