-- ==== Sys2Proof/Machine/Session.lean ====
section
/-! DEFINITION. Session, auxiliary and transport requests (46_session_aux.md). -/

namespace Sys2Proof.Machine

/-- The remote session of a key sequence (R300); nothing is sent for none. The test of `K = 0` is no
micro-step, the sequence standing in the frame (log entry 2). -/
def keySession (codes : List Byte) : List Micro :=
  if codes.isEmpty then []
  else wRemoteStart ++ codes.flatMap (fun c => keyPress (c.setWidth 7)) ++ wRemoteEnd

/-- SEND_KEYS's pseudocode (R300). -/
def sendKeysOps (codes : List Byte) : List Micro := [.validateKeys codes] ++ keySession codes ++ finishIdle

/-- SEND_KEYS, request 0x08 (R300). -/
def execSendKeys (codes : List Byte) (s : State) : Host.Outcome State Fault Refusal :=
  runRequest 0#8 (sendKeysOps codes) s

/-- FLASH_ON, request 0x09 (R301). -/
def execFlashOn (s : State) : Host.Outcome State Fault Refusal := runRequest 0#8 (wFlashOn ++ finishIdle) s

/-- FLASH_OFF, request 0x0A (R302). -/
def execFlashOff (s : State) : Host.Outcome State Fault Refusal := runRequest 0#8 (wFlashOff ++ finishIdle) s

/-- RESET_RADIO, request 0x0B (R303). -/
def execResetRadio (s : State) : Host.Outcome State Fault Refusal := runRequest 0#8 (wReset ++ finishTerminated) s

/-- READ_BATTERY, request 0x0C (R304): accepted, and refused as R334 says. -/
def execReadBattery (s : State) : Host.Outcome State Fault Refusal :=
  takeRequest 0#8 [.admitTransport, .refuseBattery] s

/-- OPEN, request 0x0F (R305): MODE is not BUSY while it runs. Its draw is made where it is tested. -/
def execOpenTransport (s : State) : Host.Outcome State Fault Refusal :=
  runOpen ([.localValue, .requireOpen] ++ finishIdle) s

end Sys2Proof.Machine
end

