-- ==== Sys2Proof/Machine/Fetch.lean ====
section
/-! DEFINITION. What the next step is: the host's next action, the request in progress, or the frame at
the request port (30_encoding.md R90; 44_channel_store.md R240; 60_exceptions.md R344). -/

namespace Sys2Proof.Machine

/-- What SEQ does next when the host lets it run. -/
inductive Fetched where
  /-- Nothing: SEQ is halted, or awaits a request and none is presented. -/
  | idle
  /-- The request in progress goes on. -/
  | resume
  /-- A frame that is no request, taken from the port. -/
  | illegal (e : Reject) (s : State)
  /-- A request, its frame taken from the port. -/
  | request (i : Instr) (s : State)
  deriving Repr

/-- The reason of ILLEGAL_REQUEST for a frame that does not decode (R240, R329). -/
def rejectReason : Reject → Byte
  | .emptyFrame => 5#8
  | .undefinedRequest _ => 1#8
  | .undefinedOpcode _ => 1#8
  | .badLength => 5#8

/-- The acceptance of a frame that is no request, up to the fault it ends in (R240). -/
def rejectOps (e : Reject) : List Micro :=
  match e with
  | .emptyFrame => [.rejectFrame (rejectReason e)]
  | .undefinedRequest _ => [.localValue, .rejectFrame (rejectReason e)]
  | .undefinedOpcode _ => [.localValue, .rejectFrame (rejectReason e)]
  | .badLength => [.localValue, .rejectFrame (rejectReason e)]

/-- A frame that is no request taken (R240). -/
def rejectRequest (e : Reject) (s : State) : Host.Outcome State Fault Refusal :=
  advance { s with stepPtr := rejectOps e }

/-- The frame at the port, decoded (R240). -/
def fetchFrame (s : State) : Fetched :=
  match s.port with
  | [] => .idle
  | f :: fs =>
    match decodeRequest f with
    | .ok i => .request i { s with port := fs }
    | .error e => .illegal e { s with port := fs }

/-- What SEQ does next. A frame waits while a request is in progress and is never taken once SEQ is
halted (R240). -/
def fetch (s : State) : Fetched :=
  if halted s then .idle
  else if !s.stepPtr.isEmpty then .resume
  else if accepts s then fetchFrame s
  else .idle

/-- The host's next action at a port of its own; `none` when it is SEQ's turn (R344). -/
def hostTurn (s : State) : Option State :=
  match s.host with
  | .present f :: rest => some { s with host := rest, port := s.port ++ [f] }
  | .readStatus no :: rest =>
    some { s with host := rest, statusReads := s.statusReads ++ [(no, statusRegister no s)] }
  | .blockReset :: rest => some (blockReset { s with host := rest })
  | _ => none

/-- SEQ's turn begun: a `proceed` of the host is taken, its limit set. -/
def seqTurn (s : State) : State :=
  match s.host with
  | .proceed k :: rest => { s with host := rest, budget := k }
  | _ => s

/-- The micro-steps of a wire command; a host request has none of its own here. -/
def wireOps : Instr → List Micro
  | .wReadCh n => wReadCh n
  | .wWriteCh n d c => wWriteFrame n d c
  | .wBattery => wBattery
  | .wDisable => wDisable
  | .wEnable => wEnable
  | .wFlashOn => wFlashOn
  | .wFlashOff => wFlashOff
  | .wReset => wReset
  | .wRemoteStart => wRemoteStart
  | .wRemoteEnd => wRemoteEnd
  | .wKeyDown c => wKeyDown c
  | .wKeyUp => wKeyUp
  | .get _ => []
  | .put _ _ => []
  | .erase _ => []
  | .writeNew _ _ _ => []
  | .update _ _ _ => []
  | .exportAll => []
  | .importAll _ => []
  | .sendKeys _ => []
  | .flashOn => []
  | .flashOff => []
  | .resetRadio => []
  | .readBattery => []
  | .openTransport => []
  | .checksum _ => []
  | .groupDecode _ _ => []
  | .groupEncode _ => []
  | .groupFromLetters _ => []
  | .groupToLetters _ => []
  | .recordDecode _ => []
  | .recordEncode _ => []
  | .isEmpty _ => []

/-- The instruction made the next one of `s`: a host request's frame first at the port with STEP at
"await request", a wire command's micro-steps at STEP of a request in progress. -/
def placeInstr (i : Instr) (frame : List Byte) (s : State) : State :=
  if (wireOps i).isEmpty then { s with host := [], budget := none, stepPtr := [], port := frame :: s.port }
  else { s with host := [], budget := none, stepPtr := wireOps i, mode := .busy }

/-- The instruction of a table word made the next one; a word that is none leaves the state. -/
def placeWord (nbits w : Nat) (s : State) : State :=
  match decodeTableWord nbits w with
  | none => s
  | some i => placeInstr i (tableFrame nbits w i) s

end Sys2Proof.Machine
end

