-- ==== Sys2Proof/Machine/Dispatch.lean ====
section
/-! DEFINITION. exec: one arm per instruction, each one call of its meaning. -/

namespace Sys2Proof.Machine

def exec (i : Instr) (s : State) : Host.Outcome State Fault Refusal :=
  match i with
  | .wReadCh n => Sys2Proof.Machine.execWReadCh n s
  | .wWriteCh n d c => Sys2Proof.Machine.execWWriteCh n d c s
  | .wBattery => Sys2Proof.Machine.execWBattery s
  | .wDisable => Sys2Proof.Machine.execWDisable s
  | .wEnable => Sys2Proof.Machine.execWEnable s
  | .wFlashOn => Sys2Proof.Machine.execWFlashOn s
  | .wFlashOff => Sys2Proof.Machine.execWFlashOff s
  | .wReset => Sys2Proof.Machine.execWReset s
  | .wRemoteStart => Sys2Proof.Machine.execWRemoteStart s
  | .wRemoteEnd => Sys2Proof.Machine.execWRemoteEnd s
  | .wKeyDown c => Sys2Proof.Machine.execWKeyDown c s
  | .wKeyUp => Sys2Proof.Machine.execWKeyUp s
  | .get n => Sys2Proof.Machine.execGet n s
  | .put n rd => Sys2Proof.Machine.execPut n rd s
  | .erase n => Sys2Proof.Machine.execErase n s
  | .writeNew n m rd => Sys2Proof.Machine.execWriteNew n m rd s
  | .update n m rd => Sys2Proof.Machine.execUpdate n m rd s
  | .exportAll => Sys2Proof.Machine.execExportAll s
  | .importAll entries => Sys2Proof.Machine.execImportAll entries s
  | .sendKeys codes => Sys2Proof.Machine.execSendKeys codes s
  | .flashOn => Sys2Proof.Machine.execFlashOn s
  | .flashOff => Sys2Proof.Machine.execFlashOff s
  | .resetRadio => Sys2Proof.Machine.execResetRadio s
  | .readBattery => Sys2Proof.Machine.execReadBattery s
  | .openTransport => Sys2Proof.Machine.execOpenTransport s
  | .checksum d => Sys2Proof.Machine.execChecksum d s
  | .groupDecode b0 b1 => Sys2Proof.Machine.execGroupDecode b0 b1 s
  | .groupEncode g => Sys2Proof.Machine.execGroupEncode g s
  | .groupFromLetters t => Sys2Proof.Machine.execGroupFromLetters t s
  | .groupToLetters v => Sys2Proof.Machine.execGroupToLetters v s
  | .recordDecode d => Sys2Proof.Machine.execRecordDecode d s
  | .recordEncode rd => Sys2Proof.Machine.execRecordEncode rd s
  | .isEmpty d => Sys2Proof.Machine.execIsEmpty d s

end Sys2Proof.Machine
end

