-- ==== Sys2Proof/Machine/Step.lean ====
section
/-! DEFINITION. The step function: the host's next action, or SEQ's next doing. Each piece stands in
Machine/Fetch.lean or Machine/Sequencer.lean. -/

namespace Sys2Proof.Machine

/-- One doing of SEQ: nothing, the request in progress carried on, or a frame taken from the port. -/
def seqStep (s : State) : Host.Outcome State Fault Refusal :=
  match fetch s with
  | .idle => .next s
  | .resume => advance s
  | .illegal e t => rejectRequest e t
  | .request i t => exec i t

/-- One step of the machine. -/
def step (s : State) : Host.Outcome State Fault Refusal :=
  match hostTurn s with
  | some t => .next t
  | none => seqStep (seqTurn s)

/-- `s` with the instruction of a table word made the next one to run. -/
def State.withFetchWord (s : State) (nbits w : Nat) : State := placeWord nbits w s

end Sys2Proof.Machine
end

