-- ==== Sys2Proof/Safety.lean ====
section
/-! DEFINITION. The terms claims are stated in: when SEQ can take a request, what a transcript moved,
and what every step keeps. -/

namespace Sys2Proof.Machine

/-- SEQ takes a request now and the host lets it run to its end: STEP awaits a request, and no host
action falls inside it (R344). -/
structure Ready (s : State) : Prop where
  await : s.stepPtr = []
  unlimited : s.budget = none

/-- The bytes a transcript transmitted, in order. -/
def txBytes : List Event → List Byte
  | [] => []
  | .tx b :: t => b :: txBytes t
  | .rx _ _ :: t => txBytes t
  | .dwell :: t => txBytes t

/-- The bytes a transcript received, in order. -/
def rxBytes : List Event → List Byte
  | [] => []
  | .tx _ :: t => rxBytes t
  | .rx _ r :: t => r ++ rxBytes t
  | .dwell :: t => rxBytes t

/-- The events of a whole read bracket answered with the slot's bytes `d` (R216). -/
def readEvents (n : Byte) (d : List Byte) : List Event :=
  [.tx 0x45#8, .rx 1 [0x45#8], .tx 0x30#8, .tx n, .rx 33 (d ++ [checksum d]), .tx 0x46#8, .rx 1 [0x46#8]]

/-- The coming reads, each asking for the number of bytes given, return these bytes, be PEER's answers
listed or open. -/
def Answered : List (Nat × List Byte) → State → Prop
  | [], _ => True
  | (n, r) :: reads, s => peerBytes n s = r ∧ Answered reads (peerUsed s)

/-- The state once the answers of `k` reads are used up: those listed first, then open ones. Laws/Peer.lean
shows it is `peerUsed` made `k` times. -/
def peerAfter (k : Nat) (s : State) : State :=
  { s with peer := s.peer.drop k, peerDraws := s.peerDraws + (k - s.peer.length) }

/-- The reads of a read bracket, answered with the slot's bytes `d` (R216). -/
def readReads (d : List Byte) : List (Nat × List Byte) := [(1, [0x45#8]), (33, d ++ [checksum d]), (1, [0x46#8])]

/-- The events of a whole write bracket, acknowledged throughout (R217). -/
def writeEvents (n : Byte) (d : List Byte) : List Event :=
  [.tx 0x45#8, .rx 1 [0x45#8], .tx 0x31#8, .tx n] ++ d.map .tx ++
    [.tx (checksum d), .rx 1 [0x31#8], .tx 0x46#8, .rx 1 [0x46#8]]

/-- The reads of a write bracket, acknowledged throughout (R217). -/
def writeReads : List (Nat × List Byte) := [(1, [0x45#8]), (1, [0x31#8]), (1, [0x46#8])]

/-- The events of one key press (R215). -/
def keyEvents (c : Byte) : List Event := [.tx (0x80#8 ||| c), .dwell, .tx 0xFF#8, .dwell]

/-- The events of a remote session, acknowledged at both ends (R300). -/
def sessionEvents (codes : List Byte) : List Event :=
  [.tx 0x4A#8, .rx 1 [0x4A#8]] ++ codes.flatMap keyEvents ++ [.tx 0x4B#8, .rx 1 [0x4B#8]]

/-- What EXPORT_ALL delivers of a radio whose slots are `slot` (R247). -/
def exportItems (slot : Byte → List Byte) : List (List Byte) :=
  (channels.filter fun n => !isEmptyRecord (slot n)).map fun n => 0xA0#8 :: n :: recordRD (rdecode (slot n))

/-- The working set a list of entries makes (R248). -/
def importedSet (entries : List (Byte × RD)) : WorkingSet :=
  entries.foldl (fun w e => wsInsert e.1 (recordOf e.2) w) []

/-- What IMPORT_ALL writes to slot `n` (R249). -/
def slotBytes (w : WorkingSet) (n : Byte) : List Byte :=
  match wsLookup n w with
  | some r => rencode r
  | none => emptySlot

/-- What IMPORT_ALL still has to do at the entries `after` (R248 to R250). -/
def importFrom (after : List (Byte × RD)) : List Micro :=
  after.flatMap importEntry ++ channels.flatMap importChannel ++ wReset ++ finishTerminated

/-- The entries of an IMPORT_ALL that passes validation (R248). -/
structure ImportValid (entries : List (Byte × RD)) : Prop where
  channels : ∀ e ∈ entries, channelOk e.1 = true
  fields : ∀ e ∈ entries, fieldFailure allFields e.2 = none
  distinct : (entries.map Prod.fst).Nodup

/-- The instruction is a transport request (30_encoding.md R91). -/
def isTransport : Instr → Bool
  | .get _ => true
  | .put _ _ => true
  | .erase _ => true
  | .writeNew _ _ _ => true
  | .update _ _ _ => true
  | .exportAll => true
  | .importAll _ => true
  | .sendKeys _ => true
  | .flashOn => true
  | .flashOff => true
  | .resetRadio => true
  | .readBattery => true
  | .openTransport => false
  | .checksum _ => false
  | .groupDecode _ _ => false
  | .groupEncode _ => false
  | .groupFromLetters _ => false
  | .groupToLetters _ => false
  | .recordDecode _ => false
  | .recordEncode _ => false
  | .isEmpty _ => false
  | .wReadCh _ => false
  | .wWriteCh _ _ _ => false
  | .wBattery => false
  | .wDisable => false
  | .wEnable => false
  | .wFlashOn => false
  | .wFlashOff => false
  | .wReset => false
  | .wRemoteStart => false
  | .wRemoteEnd => false
  | .wKeyDown _ => false
  | .wKeyUp => false

/-- The instruction is a wire command (43_protocol.md R200). -/
def isWire (i : Instr) : Bool := !(wireOps i).isEmpty

/-- The state a VALIDATION fault leaves (60_exceptions.md R320, R330). -/
def validationFault (field chan : Byte) (s : State) : State :=
  { s with
    mode := .faulted
    errCode := .validation
    errSub := field
    errExpected := 0#9
    errReceived := 0#9
    errChan := chan
    errCmd := 0#8
    responses := s.responses ++ [[0x85#8, field, 0#8, 0#8, 0#8, 0#8, chan, 0#8]] }

/-- The state an ILLEGAL_REQUEST fault leaves (60_exceptions.md R320, R329, R330). -/
def illegalFault (reason : Byte) (s : State) : State :=
  { s with
    mode := .faulted
    errCode := .illegalRequest
    errSub := reason
    errExpected := 0#9
    errReceived := 0#9
    errChan := 0#8
    errCmd := 0#8
    responses := s.responses ++ [[0x89#8, reason, 0#8, 0#8, 0#8, 0#8, 0#8, 0#8]] }

/-- What every step keeps: the reserved bits of FLAGS read 0 (R23), REFUSED_MARK says MODE is REFUSED
(R28), a fault is latched exactly in FAULTED (R29), REC_BUF and WS are canonical, TX_COUNT and RX_COUNT
count the transcript (R36, R37), and every read asked for 1 or 33 bytes and got no more (R9, R70). -/
structure StateInv (s : State) : Prop where
  flagsReserved : s.flags.extractLsb' 5 3 = 0#3
  refusedMark : readFlag .refusedMark s = true ↔ s.mode = .refused
  faultLatched : s.errCode ≠ .none ↔ s.mode = .faulted
  recBufCanonical : s.recBuf.wf = true
  wsCanonical : workingSetWf s.ws = true
  txCounted : s.txCount = BitVec.ofNat 32 (txBytes s.transcript).length
  rxCounted : s.rxCount = BitVec.ofNat 32 (rxBytes s.transcript).length
  readsBounded : ∀ n r, Event.rx n r ∈ s.transcript → (n = 1 ∨ n = 33) ∧ r.length ≤ n

end Sys2Proof.Machine
end

