-- ==== Sys2Proof/Certificates/Slice0/Obligations.lean ====
section
/-! DEFINITION. The statements for the provers, in the order of OBLIGATIONS.json. Each says which rules
of spec/ it rests on.

The fields `port`, `host`, `budget`, `statusReads`, `peer`, `peerDraws`, `openings`, `openDraws` and `reqChan`
are the model's own (log entries 4, 5 and 9), and so is how finely STEP cuts the pseudocode (log entry 2):
where a statement says what one of them holds, that clause is the model's choice; so is every clause that
says what STEP is frozen at. `Ready`, and `budget = none` where a state need only accept a request, say that
no host action falls inside the request. A statement of what `exec` does with a wire command speaks of
every state in BUSY, wherever STEP stands: that the command goes ahead there is the model's choice too (log
entry 6). What PEER answers, and how an opening ends, are hypotheses on
`peerBytes`, on `Answered` and on `openingOk`, which hold of listed and of open answers alike. -/

open Sys2Proof Sys2Proof.Machine

/-! ### Encoding -/

/-- Decode undoes encode on every well-formed instruction (30_encoding.md R91, R95, R111). -/
def Obligations.DecodeEncodeRoundTrip : Prop :=
  ∀ i : Instr, i.wellFormed = true → decode (encode i) = .ok i

/-- A frame that decodes is the encoding of what it decodes to: no byte of it is dropped. -/
def Obligations.EncodeInvertsDecode : Prop :=
  ∀ (f : List Byte) (i : Instr), decode f = .ok i → encode i = f

/-- Frames written out from the tables of R91 and R111 decode to what they stand for. -/
def Obligations.WrittenFramesDecode : Prop :=
  decode [0x01#8, 0x07#8] = .ok (.get 7#8) ∧
  decode [0x08#8, 0x02#8, 0x0A#8, 0x03#8] = .ok (.sendKeys [10#8, 3#8]) ∧
  decode [0x0F#8] = .ok .openTransport ∧
  decode [0x12#8, 0x04#8, 0x01#8, 0x00#8, 0x0F#8, 0x02#8] = .ok (.groupEncode [1#8, 0#8, 15#8, 2#8]) ∧
  decode [0x30#8, 0xC6#8] = .ok (.wReadCh 198#8) ∧
  decode [0x8A#8] = .ok (.wKeyDown 10#7) ∧
  decode [0xFF#8] = .ok .wKeyUp

/-- A frame with bytes missing or left over is no request (R94): every proper non-empty beginning of a
request's frame, and every longer frame that begins with it. -/
def Obligations.LengthMismatchIsNoRequest : Prop :=
  ∀ (i : Instr), i.wellFormed = true → isWire i = false →
    (∀ k, 0 < k → k < (encode i).length → decodeRequest ((encode i).take k) = .error .badLength) ∧
    (∀ extra, extra ≠ [] → decodeRequest (encode i ++ extra) = .error .badLength)

/-! ### The step function -/

/-- A step runs the request whose frame is at the port (R90, R240), the frame being taken. That the frames
wait in a list is the model's choice (log entry 5). -/
def Obligations.StepRunsThePresentedRequest : Prop :=
  ∀ (i : Instr) (f : List Byte) (fs : List (List Byte)) (s : State), i.wellFormed = true →
    decodeRequest f = .ok i → s.host = [] → accepts s = true → s.port = f :: fs →
    step s = exec i { s with port := fs }

/-- A step runs the wire command STEP is at, when the host lets exactly its micro-steps be made
(R42); what STEP holds after it stays for later. The limit on micro-steps and their size are the model's
choice (log entries 2 and 5). -/
def Obligations.StepRunsTheWireCommandAtStep : Prop :=
  ∀ (i : Instr) (rest : List Micro) (s : State), isWire i = true → s.mode = .busy → s.host = [] →
    s.stepPtr = wireOps i ++ rest → s.budget = some (wireOps i).length →
    step s = exec i { s with stepPtr := rest, budget := none }

/-- An undefined request code raises ILLEGAL_REQUEST with ERRSUB 1 and transmits nothing (R92). What STEP
is frozen at is the model's (log entry 2). -/
def Obligations.UndefinedRequestRaises : Prop :=
  ∀ (req : Byte) (payload : List Byte) (fs : List (List Byte)) (s : State),
    (req = 0x00#8 ∨ req = 0x0D#8 ∨ req = 0x0E#8 ∨ 0x18 ≤ req.toNat) →
    s.host = [] → s.budget = none → accepts s = true → s.port = (req :: payload) :: fs →
    step s = .next { illegalFault 1#8 { s with port := fs } with stepPtr := [.rejectFrame 1#8] } ∧
    (illegalFault 1#8 { s with port := fs }).transcript = s.transcript ∧
    (illegalFault 1#8 { s with port := fs }).txCount = s.txCount

/-- An empty frame and one of the wrong length raise ILLEGAL_REQUEST with ERRSUB 5 (R240, R329). What STEP
is frozen at is the model's (log entry 2). -/
def Obligations.WrongLengthRaises : Prop :=
  ∀ (f : List Byte) (fs : List (List Byte)) (s : State),
    (f = [] ∨ decodeRequest f = .error .badLength) →
    s.host = [] → s.budget = none → accepts s = true → s.port = f :: fs →
    step s = .next { illegalFault 5#8 { s with port := fs } with stepPtr := [.rejectFrame 5#8] }

/-- A presented frame waits while a request is in progress or SEQ is halted (R90, R240, D44). -/
def Obligations.PresentedFramesWait : Prop :=
  ∀ s t : State, s.host = [] → accepts s = false → step s = .next t → t.port = s.port

/-- Once SEQ is halted, nothing but block reset changes any element of it (R332, R334). That "no step" is
a step to the same state is the model's choice (log entry 3). -/
def Obligations.HaltedUntilBlockReset : Prop :=
  ∀ s t : State, halted s = true → step s = .next t →
    (∃ rest, s.host = .blockReset :: rest) ∨
    t = { s with port := t.port, host := t.host, budget := t.budget, statusReads := t.statusReads }

/-- Block reset puts every element to which R360 gives a value at that value, in one step, whatever the
state was, and leaves what is PEER's (R361; the lists that stand for PEER are the model's, log entry 4).
A frame presented to a SEQ that is FAULTED or REFUSED is never accepted (R240): none is at the port after
the reset. That the frames at the port of any other SEQ stay is the model's choice (log entry 5).
REC_BUF, CK_REG and ADDR_REG have no value there: the statement says nothing of them (log entry 1). -/
def Obligations.BlockResetRestores : Prop :=
  ∀ (s : State) (rest : List HostAction), s.host = .blockReset :: rest →
    ∃ t, step s = .next t ∧
      t.mode = .closed ∧ t.flags = 0#8 ∧ t.errCode = .none ∧ t.errSub = 0#8 ∧ t.errExpected = 0#9 ∧
      t.errReceived = 0#9 ∧ t.errChan = 0#8 ∧ t.errCmd = 0#8 ∧ t.chanCtr = 0#8 ∧ t.txCount = 0#32 ∧
      t.rxCount = 0#32 ∧ t.ws = [] ∧ t.stepPtr = [] ∧ t.transcript = [] ∧ t.responses = [] ∧
      t.peer = s.peer ∧ t.peerDraws = s.peerDraws ∧ t.openings = s.openings ∧ t.openDraws = s.openDraws ∧
      ((s.mode = .faulted ∨ s.mode = .refused) → t.port = []) ∧
      (s.mode ≠ .faulted → s.mode ≠ .refused → t.port = s.port)

/-- The values R360 gives, at the machine's reset state. -/
def Obligations.ResetStateValues : Prop :=
  core.reset = State.reset ∧ State.reset.mode = .closed ∧ State.reset.flags = 0#8 ∧ State.reset.errCode = .none ∧
  State.reset.errSub = 0#8 ∧ State.reset.errExpected = 0#9 ∧ State.reset.errReceived = 0#9 ∧
  State.reset.errChan = 0#8 ∧ State.reset.errCmd = 0#8 ∧ State.reset.chanCtr = 0#8 ∧
  State.reset.txCount = 0#32 ∧ State.reset.rxCount = 0#32 ∧ (∀ n, wsLookup n State.reset.ws = none) ∧
  State.reset.stepPtr = [] ∧ State.reset.transcript = [] ∧ State.reset.responses = []

/-- The status port reads each register by its number (10_state.md section 2), a reserved number reads
0, the read changes no element of SEQ, its answer being recorded (log entry 5) and nothing else, and the
host's other port, the request port, writes no register either (R44). -/
def Obligations.StatusPortReads : Prop :=
  (∀ (f : List Byte) (rest : List HostAction) (s : State), s.host = .present f :: rest →
    step s = .next { s with host := rest, port := s.port ++ [f] }) ∧
  ∀ (no : Byte) (rest : List HostAction) (s : State), s.host = .readStatus no :: rest →
    ∃ v : Word32, step s = .next { s with host := rest, statusReads := s.statusReads ++ [(no, v)] } ∧
      (no = 0x00#8 → v = (modeCode s.mode).setWidth 32) ∧ (no = 0x01#8 → v = s.flags.setWidth 32) ∧
      (no = 0x02#8 → v = (faultCode s.errCode).setWidth 32) ∧ (no = 0x03#8 → v = s.errSub.setWidth 32) ∧
      (no = 0x04#8 → v = s.errExpected.setWidth 32) ∧ (no = 0x05#8 → v = s.errReceived.setWidth 32) ∧
      (no = 0x06#8 → v = s.errChan.setWidth 32) ∧ (no = 0x07#8 → v = s.errCmd.setWidth 32) ∧
      (no = 0x08#8 → v = s.chanCtr.setWidth 32) ∧ (no = 0x09#8 → v = s.txCount) ∧
      (no = 0x0A#8 → v = s.rxCount) ∧ (0x0B ≤ no.toNat → v = 0#32)

/-- A request the host interrupts after `k` micro-steps and then lets go on ends as one that was never
interrupted (R42, R375), and what the host does between two micro-steps changes nothing of the request:
whatever frames, host actions and status answers then stand in the state, and, said through `step`, when
the host presents a frame or reads a status register there (R344). The limit `k`, and the lists that hold
the frames and the answers, are the model's (log entry 5). -/
def Obligations.PausingChangesNothing : Prop :=
  (∀ (s t : State) (k : Nat), s.budget = some k → advance s = .next t → halted t = false →
    ∀ (p : List (List Byte)) (h : List HostAction) (r : List (Byte × Word32)),
      advance { t with port := p, host := h, statusReads := r } =
        advance { s with budget := none, port := p, host := h, statusReads := r }) ∧
  ∀ (s t : State) (k : Nat) (a : HostAction) (rest : List HostAction),
    s.host = .proceed (some k) :: a :: .proceed none :: rest →
    ((∃ f, a = .present f) ∨ ∃ no, a = .readStatus no) → s.stepPtr ≠ [] → halted s = false →
    step s = .next t → halted t = false → t.stepPtr ≠ [] →
    ∃ u, step t = .next u ∧
      step u = step { s with host := .proceed none :: rest, port := u.port, statusReads := u.statusReads } ∧
      (∀ f, a = .present f → u.port = s.port ++ [f] ∧ u.statusReads = s.statusReads) ∧
      (∀ no, a = .readStatus no → u.port = s.port ∧ ∃ v, u.statusReads = s.statusReads ++ [(no, v)])

/-! ### Fault entry and refusal -/

/-- Fault entry latches the class and its information, enters FAULTED, sends the 8-byte fault frame of
R99 and leaves every other element (R330); STEP is frozen at the micro-step that raised the fault (R42), and
no later one of the request is made (R330). That STEP frozen there is the list that begins with that
micro-step, the later ones after it, is the model's choice (log entry 2). -/
def Obligations.FaultEntryLatches : Prop :=
  (∀ (c : FaultClass) (i : FaultInfo) (s : State),
    raise c i s = { s with
      errCode := c
      errSub := i.sub
      errExpected := (match i.expected with | none => 0#9 | some b => 0x100#9 ||| b.setWidth 9)
      errReceived := (match i.received with | none => 0#9 | some b => 0x100#9 ||| b.setWidth 9)
      errChan := i.chan
      errCmd := i.cmd
      mode := .faulted
      responses := s.responses ++ [[0x80#8 ||| faultCode c, i.sub,
        (match i.expected with | none => 0x00#8 | some _ => 0x01#8),
        (match i.expected with | none => 0x00#8 | some b => b),
        (match i.received with | none => 0x00#8 | some _ => 0x01#8),
        (match i.received with | none => 0x00#8 | some b => b), i.chan, i.cmd]] }) ∧
  ∀ (op : Micro) (ops : List Micro) (s t : State), perform op s = .next t → t.mode = .faulted →
    settle (thread (op :: ops) s) = .next { t with stepPtr := op :: ops ++ t.stepPtr }

/-- A bracket or session command whose acknowledgement is missing or another byte raises ACK_MISMATCH
with the expected and the received byte, right after the read, its flag not changed and STEP frozen at
the acknowledgement (R201, R202, R203, R211, R212, R331). `checkAck` as the frozen micro-step and `reqChan`
are the model's (log entries 2 and 9). -/
def Obligations.AckMismatchFaults : Prop :=
  ∀ (p : Instr × Byte),
    p ∈ [(Instr.wDisable, 0x45#8), (.wEnable, 0x46#8), (.wRemoteStart, 0x4A#8), (.wRemoteEnd, 0x4B#8)] →
    ∀ s : State, s.mode = .busy → (peerBytes 1 s).head? ≠ some p.2 →
      ∃ t, exec p.1 s = .next t ∧ t.mode = .faulted ∧ t.errCode = .ackMismatch ∧ t.errSub = 0#8 ∧
        t.errExpected = 0x100#9 ||| p.2.setWidth 9 ∧
        (peerBytes 1 s = [] → t.errReceived = 0#9) ∧
        (∀ b, peerBytes 1 s = [b] → t.errReceived = 0x100#9 ||| b.setWidth 9) ∧
        t.errChan = s.reqChan ∧ t.errCmd = p.2 ∧ t.flags = s.flags ∧
        t.transcript = s.transcript ++ [.tx p.2, .rx 1 (peerBytes 1 s)] ∧
        t.txCount = s.txCount + 1#32 ∧ t.rxCount = s.rxCount + BitVec.ofNat 32 (peerBytes 1 s).length ∧
        t.stepPtr.head? = some (.checkAck p.2) ∧
        t.recBuf = s.recBuf ∧ t.ws = s.ws ∧ t.ckReg = s.ckReg ∧ t.addrReg = s.addrReg ∧ t.chanCtr = s.chanCtr

/-- A write-channel frame that is not acknowledged with 0x31 raises ACK_MISMATCH after all its 35 bytes,
with the byte received or none, RADIO_DISABLED as it was (R206, R217, R251, R31, R32, R201). That the
command brings its data with it is the model's reading (log entry 7). -/
def Obligations.WriteAckMismatchFaults : Prop :=
  ∀ (n : Byte) (d : List Byte) (s : State), channelExists n = true → d.length = 32 → s.mode = .busy →
    (peerBytes 1 s).head? ≠ some 0x31#8 →
    ∃ t, exec (.wWriteCh n d (checksum d)) s = .next t ∧ t.mode = .faulted ∧ t.errCode = .ackMismatch ∧
      t.errSub = 0#8 ∧ t.errExpected = 0x131#9 ∧ (peerBytes 1 s = [] → t.errReceived = 0#9) ∧
      (∀ b, peerBytes 1 s = [b] → t.errReceived = 0x100#9 ||| b.setWidth 9) ∧
      t.errChan = s.reqChan ∧ t.errCmd = 0x31#8 ∧ t.flags = s.flags ∧
      t.transcript = s.transcript ++ ([.tx 0x31#8, .tx n] ++ d.map .tx ++ [.tx (checksum d), .rx 1 (peerBytes 1 s)]) ∧
      t.txCount = s.txCount + 35#32 ∧ t.rxCount = s.rxCount + BitVec.ofNat 32 (peerBytes 1 s).length ∧
      t.recBuf.bytes = d ∧ t.ckReg = checksum d ∧ t.addrReg = n ∧ t.ws = s.ws ∧ t.chanCtr = s.chanCtr

/-- The read response is checked in the order of R205, right after the read: none, too short, a wrong
checksum, or taken. A failed check leaves REC_BUF and FLAGS; a response taken is the command's
completion, with ADDR_REG, CK_REG and REC_BUF as R204 leaves them. That ERR_CHAN is `reqChan`, the channel
operand of the request in progress, is the model's (log entry 9). -/
def Obligations.ReadResponseIsChecked : Prop :=
  ∀ (n : Byte) (s : State), channelExists n = true → s.mode = .busy →
    ((peerBytes 33 s).length < 33 ∨ checksum ((peerBytes 33 s).take 32) ≠ byteAt (peerBytes 33 s) 32 →
      ∃ t, exec (.wReadCh n) s = .next t ∧ t.mode = .faulted ∧ t.errChan = s.reqChan ∧ t.errCmd = 0x30#8 ∧
        t.recBuf = s.recBuf ∧ t.flags = s.flags ∧ t.addrReg = n ∧ t.ws = s.ws ∧ t.chanCtr = s.chanCtr ∧
        t.transcript = s.transcript ++ [.tx 0x30#8, .tx n, .rx 33 (peerBytes 33 s)] ∧
        t.txCount = s.txCount + 2#32 ∧ t.rxCount = s.rxCount + BitVec.ofNat 32 (peerBytes 33 s).length ∧
        ((peerBytes 33 s).length = 0 → t.errCode = .emptyResponse ∧ t.errSub = 0#8 ∧ t.errExpected = 0#9 ∧
          t.errReceived = 0#9 ∧ t.ckReg = s.ckReg) ∧
        (0 < (peerBytes 33 s).length → (peerBytes 33 s).length < 33 → t.errCode = .shortResponse ∧
          t.errSub = BitVec.ofNat 8 (peerBytes 33 s).length ∧ t.errExpected = 0#9 ∧ t.errReceived = 0#9 ∧
          t.ckReg = s.ckReg) ∧
        ((peerBytes 33 s).length = 33 → t.errCode = .checksumMismatch ∧ t.errSub = 0#8 ∧
          t.errExpected = 0x100#9 ||| (checksum ((peerBytes 33 s).take 32)).setWidth 9 ∧
          t.errReceived = 0x100#9 ||| (byteAt (peerBytes 33 s) 32).setWidth 9 ∧
          t.ckReg = checksum ((peerBytes 33 s).take 32))) ∧
    ((peerBytes 33 s).length = 33 → checksum ((peerBytes 33 s).take 32) = byteAt (peerBytes 33 s) 32 →
      exec (.wReadCh n) s = .next { peerUsed s with
        addrReg := n
        ckReg := checksum ((peerBytes 33 s).take 32)
        recBuf := Memory.ofBytes ((peerBytes 33 s).take 32)
        transcript := s.transcript ++ [.tx 0x30#8, .tx n, .rx 33 (peerBytes 33 s)]
        txCount := s.txCount + 2#32
        rxCount := s.rxCount + 33#32 })

/-! ### Wire commands that complete, and where they stop -/

/-- The bracket and session commands, acknowledged, by an answer listed or open: the byte, its echo, and
their flag (R202, R203, R211, R212). -/
def Obligations.AcknowledgedCommandsComplete : Prop :=
  ∀ s : State, s.mode = .busy →
    (peerBytes 1 s = [0x45#8] →
      exec .wDisable s = .next { peerUsed s with
        flags := setBit s.flags 0 true, txCount := s.txCount + 1#32, rxCount := s.rxCount + 1#32
        transcript := s.transcript ++ [.tx 0x45#8, .rx 1 [0x45#8]] }) ∧
    (peerBytes 1 s = [0x46#8] →
      exec .wEnable s = .next { peerUsed s with
        flags := setBit s.flags 0 false, txCount := s.txCount + 1#32, rxCount := s.rxCount + 1#32
        transcript := s.transcript ++ [.tx 0x46#8, .rx 1 [0x46#8]] }) ∧
    (peerBytes 1 s = [0x4A#8] →
      exec .wRemoteStart s = .next { peerUsed s with
        flags := setBit s.flags 1 true, txCount := s.txCount + 1#32, rxCount := s.rxCount + 1#32
        transcript := s.transcript ++ [.tx 0x4A#8, .rx 1 [0x4A#8]] }) ∧
    (peerBytes 1 s = [0x4B#8] →
      exec .wRemoteEnd s = .next { peerUsed s with
        flags := setBit s.flags 1 false, txCount := s.txCount + 1#32, rxCount := s.rxCount + 1#32
        transcript := s.transcript ++ [.tx 0x4B#8, .rx 1 [0x4B#8]] })

/-- The commands that expect nothing back: one byte is sent, and nothing else happens (R208 to R210,
R213, R214; the dwell after a key byte is KEY's, which is the model's reading, log entry 8). -/
def Obligations.FireAndForgetCommandsComplete : Prop :=
  ∀ s : State, s.mode = .busy →
    (∀ p : Instr × Byte,
      p ∈ [(Instr.wFlashOn, 0x47#8), (.wFlashOff, 0x48#8), (.wReset, 0x49#8), (.wKeyUp, 0xFF#8)] →
      exec p.1 s = .next { s with transcript := s.transcript ++ [.tx p.2], txCount := s.txCount + 1#32 }) ∧
    (∀ c : BitVec 7, c ≠ 127#7 →
      exec (.wKeyDown c) s = .next { s with
        transcript := s.transcript ++ [.tx (0x80#8 ||| c.setWidth 8)], txCount := s.txCount + 1#32 })

/-- W_WRITE_CH, acknowledged: 35 bytes in frame order, then the echo (R206, R132). That the command brings
its data with it is the model's reading (log entry 7). -/
def Obligations.WriteChannelCompletes : Prop :=
  ∀ (n : Byte) (d : List Byte) (s : State), channelExists n = true → d.length = 32 → s.mode = .busy →
    peerBytes 1 s = [0x31#8] →
    exec (.wWriteCh n d (checksum d)) s = .next { peerUsed s with
      addrReg := n
      ckReg := checksum d
      recBuf := Memory.ofBytes d
      transcript := s.transcript ++ ([.tx 0x31#8, .tx n] ++ d.map .tx ++ [.tx (checksum d), .rx 1 [0x31#8]])
      txCount := s.txCount + 35#32
      rxCount := s.rxCount + 1#32 }

/-- W_BATTERY stops in every state: its exchange is not in the source and must not be invented
(R207). -/
def Obligations.BatteryCommandStops : Prop :=
  ∀ s : State, exec .wBattery s = .refused .batteryShapeUnknown

/-- Where the other wire commands stop: outside a request in progress, at a channel address that does
not exist (R73), with data or a checksum that are no frame's (R132), and at key code 127 (R213). SEQ makes
no such command; that the model stops there is its choice (log entry 6). -/
def Obligations.WireCommandsStopOutsideTheirDomain : Prop :=
  (∀ (i : Instr) (s : State), isWire i = true → i ≠ .wBattery → s.mode ≠ .busy →
    exec i s = .fault .wireCommandOutsideRequest) ∧
  (∀ (n : Byte) (s : State), s.mode = .busy → channelExists n = false →
    exec (.wReadCh n) s = .fault .noSuchChannel ∧
    ∀ d : List Byte, d.length = 32 → exec (.wWriteCh n d (checksum d)) s = .fault .noSuchChannel) ∧
  (∀ (n : Byte) (d : List Byte) (c : Byte) (s : State), s.mode = .busy → (d.length ≠ 32 ∨ c ≠ checksum d) →
    exec (.wWriteCh n d c) s = .fault .badWriteFrame) ∧
  (∀ s : State, s.mode = .busy → exec (.wKeyDown 127#7) s = .fault .keyCodeOutOfRange)

/-! ### Acceptance and validation -/

/-- Acceptance looks at MODE in the order of R240: a transport request before OPEN and one after the
radio's reset raise ILLEGAL_REQUEST with reasons 2 and 3 before any of its own checks, and OPEN when
not CLOSED raises reason 4 (R329, R335). That STEP is frozen at a micro-step of its own for that test, and
`reqChan`, are the model's (log entries 2 and 9). -/
def Obligations.AcceptanceByMode : Prop :=
  ∀ (i : Instr) (s : State), Ready s →
    (isTransport i = true → s.mode = .closed →
      ∃ chan ops, exec i s = .next { illegalFault 2#8 s with
        flags := setBit s.flags 2 false, reqChan := chan, stepPtr := .admitTransport :: ops }) ∧
    (isTransport i = true → s.mode = .terminated →
      ∃ chan ops, exec i s = .next { illegalFault 3#8 s with
        flags := setBit s.flags 2 false, reqChan := chan, stepPtr := .admitTransport :: ops }) ∧
    ((s.mode = .idle ∨ s.mode = .terminated) →
      ∃ ops, exec .openTransport s = .next { illegalFault 4#8 s with
        flags := setBit s.flags 2 false, reqChan := 0#8, stepPtr := .admitOpen :: ops })

/-- The channel validator passes 1..198 and raises VALIDATION with field 1 and the number as given
otherwise (R281), and every request that names a channel ends so before any byte is sent, IMPORT_ALL at
any entry whose predecessors are valid, of which WS then holds the records (R240, R242 to R246, R248,
R280). What STEP is frozen at and `reqChan` are the model's (log entries 2 and 9). -/
def Obligations.ChannelNumberIsValidated : Prop :=
  (∀ (n : Byte) (s : State), perform (.validateChannel n) s =
    .next (if 1 ≤ n.toNat ∧ n.toNat ≤ 198 then s else validationFault 1#8 n s)) ∧
  ∀ (n : Byte) (s : State), Ready s → s.mode = .idle → (n.toNat = 0 ∨ 198 < n.toNat) →
    (exec (.get n) s = .next { validationFault 1#8 n s with
      flags := setBit s.flags 2 false, reqChan := n, stepPtr := getOps n }) ∧
    (exec (.erase n) s = .next { validationFault 1#8 n s with
      flags := setBit s.flags 2 false, reqChan := n, stepPtr := eraseOps n }) ∧
    (∀ rd, exec (.put n rd) s = .next { validationFault 1#8 n s with
      flags := setBit s.flags 2 false, reqChan := n, stepPtr := putOps n rd }) ∧
    (∀ m rd, exec (.writeNew n m rd) s = .next { validationFault 1#8 n s with
      flags := setBit s.flags 2 false, reqChan := n, stepPtr := writeNewOps n m rd }) ∧
    (∀ m rd, exec (.update n m rd) s = .next { validationFault 1#8 n s with
      flags := setBit s.flags 2 false, reqChan := n, stepPtr := updateOps n m rd }) ∧
    (∀ before after rd, workingSetWf s.ws = true → ImportValid before →
      exec (.importAll (before ++ (n, rd) :: after)) s = .next { validationFault 1#8 n s with
        flags := setBit s.flags 2 (before.any fun e => truncates allFields e.2)
        reqChan := 0#8
        ws := importedSet before
        stepPtr := importEntry (n, rd) ++ importFrom after })

/-- The validation of a descriptor's supplied fields: the domain of each field, the code its failure
raises VALIDATION with, that the first failing field is the one reported, that a field not supplied is not
checked, and that a name that is too long sets the warning and fails nothing (R282 to R286, R288, R289,
R292, R293). That the warning is a micro-step of its own is the model's (log entry 2). -/
def Obligations.FirstFailingFieldIsReported : Prop :=
  (∀ (n : Byte) (m : Word16) (rd : RD) (s : State),
    perform (.validateFields n m rd) s = .next (match fieldFailure m rd with
      | some code => validationFault code n s
      | none => s) ∧
    perform (.noteTruncation (truncates m rd)) s = .next
      (if m.getLsbD 8 = true ∧ 12 < rd.name.length then { s with flags := setBit s.flags 2 true } else s)) ∧
  ∀ (m : Word16) (rd : RD),
    (truncates m rd = true ↔ m.getLsbD 8 = true ∧ 12 < rd.name.length) ∧
    fieldFailure m rd =
      if m.getLsbD 0 = true ∧ ¬(1800000 ≤ rd.rx.toNat ∧ rd.rx.toNat ≤ 130000000) then some 2#8
      else if m.getLsbD 1 = true ∧ ¬(1800000 ≤ rd.tx.toNat ∧ rd.tx.toNat ≤ 130000000) then some 3#8
      else if m.getLsbD 2 = true ∧ ¬(rd.rxt.toNat = 0 ∨ (670 ≤ rd.rxt.toNat ∧ rd.rxt.toNat ≤ 2541)) then some 4#8
      else if m.getLsbD 3 = true ∧ ¬(rd.txt.toNat = 0 ∨ (670 ≤ rd.txt.toNat ∧ rd.txt.toNat ≤ 2541)) then some 5#8
      else if m.getLsbD 5 = true ∧
        ¬(rd.g0.toNat ≤ 15 ∧ rd.g1.toNat ≤ 15 ∧ rd.g2.toNat ≤ 15 ∧ rd.g3.toNat ≤ 15) then some 7#8
      else if m.getLsbD 6 = true ∧ ¬(rd.modulation.toNat ≤ 3) then some 8#8
      else if m.getLsbD 7 = true ∧ ¬(rd.bandwidth.toNat ≤ 1) then some 9#8
      else none

/-- A field that fails raises VALIDATION with its code and the request's channel, before any byte is
sent, in every request that carries a record descriptor (R280, R293): RECORD_ENCODE wherever a request is
taken (R22), IMPORT_ALL at any entry whose predecessors are valid (R248, R335). What STEP is frozen at and
`reqChan` are the model's (log entries 2 and 9). -/
def Obligations.FailingFieldRaises : Prop :=
  (∀ (n : Byte) (m : Word16) (rd : RD) (code : Byte) (s : State), Ready s → s.mode = .idle →
    channelOk n = true →
    (fieldFailure m rd = some code →
      exec (.writeNew n m rd) s = .next { validationFault code n s with
        flags := setBit s.flags 2 false, reqChan := n, stepPtr := (writeNewOps n m rd).drop 1 } ∧
      exec (.update n m rd) s = .next { validationFault code n s with
        flags := setBit s.flags 2 false, reqChan := n, stepPtr := (updateOps n m rd).drop 1 }) ∧
    (fieldFailure allFields rd = some code →
      exec (.put n rd) s = .next { validationFault code n s with
        flags := setBit s.flags 2 false, reqChan := n, stepPtr := (putOps n rd).drop 1 } ∧
      ∀ before after, workingSetWf s.ws = true → ImportValid before → n ∉ before.map Prod.fst →
        exec (.importAll (before ++ (n, rd) :: after)) s = .next { validationFault code n s with
          flags := setBit s.flags 2 (before.any fun e => truncates allFields e.2)
          reqChan := 0#8
          ws := importedSet before
          stepPtr := (importEntry (n, rd)).drop 2 ++ importFrom after })) ∧
  ∀ (rd : RD) (code : Byte) (s : State), accepts s = true → s.budget = none →
    fieldFailure allFields rd = some code →
    exec (.recordEncode rd) s = .next { validationFault code 0#8 s with
      flags := setBit s.flags 2 false, reqChan := 0#8, stepPtr := recordEncodeOps rd }

/-- An import whose entries pass up to one that repeats an earlier channel raises VALIDATION with field
10 and that channel, and transmits nothing (R248, R291). What STEP is frozen at and `reqChan` are the
model's (log entries 2 and 9). -/
def Obligations.DuplicateChannelRaises : Prop :=
  ∀ (before after : List (Byte × RD)) (n : Byte) (rd : RD) (s : State), Ready s → s.mode = .idle →
    workingSetWf s.ws = true → ImportValid before → n ∈ before.map Prod.fst →
    exec (.importAll (before ++ (n, rd) :: after)) s = .next { validationFault 10#8 n s with
      flags := setBit s.flags 2 (before.any fun e => truncates allFields e.2)
      reqChan := 0#8
      ws := importedSet before
      stepPtr := (importEntry (n, rd)).drop 1 ++ importFrom after }

/-- Whatever the request, one that ends in a VALIDATION fault has moved no byte on the transport
(R280). -/
def Obligations.ValidationFaultMovesNoByte : Prop :=
  ∀ (i : Instr) (s t : State), accepts s = true → s.errCode ≠ .validation → exec i s = .next t →
    t.errCode = .validation →
    t.transcript = s.transcript ∧ t.txCount = s.txCount ∧ t.rxCount = s.rxCount

/-! ### Channel store requests -/

/-- GET of a programmed channel: one read bracket, then the decoded record (R242, R216). -/
def Obligations.GetReturnsTheRecord : Prop :=
  ∀ (n : Byte) (d : List Byte) (s : State), Ready s → s.mode = .idle →
    channelOk n = true → d.length = 32 → (∃ b ∈ d, b ≠ 0xFF#8) → Answered (readReads d) s →
    exec (.get n) s = .next { peerAfter 3 s with
      flags := setBit (setBit (setBit s.flags 2 false) 0 false) 3 false
      reqChan := n
      addrReg := n
      ckReg := checksum d
      recBuf := Memory.ofBytes d
      transcript := s.transcript ++ readEvents n d
      txCount := s.txCount + 4#32
      rxCount := s.rxCount + 35#32
      responses := s.responses ++ [0x00#8 :: 0x00#8 :: recordRD (rdecode d)] }

/-- GET of an empty channel: the same bracket, LAST_EMPTY set, and no record (R242, R171). -/
def Obligations.GetReportsAnEmptySlot : Prop :=
  ∀ (n : Byte) (s : State), Ready s → s.mode = .idle → channelOk n = true →
    Answered (readReads (List.replicate 32 0xFF#8)) s →
    exec (.get n) s = .next { peerAfter 3 s with
      flags := setBit (setBit (setBit s.flags 2 false) 0 false) 3 true
      reqChan := n
      addrReg := n
      ckReg := 0xE0#8
      recBuf := Memory.ofBytes (List.replicate 32 0xFF#8)
      transcript := s.transcript ++ readEvents n (List.replicate 32 0xFF#8)
      txCount := s.txCount + 4#32
      rxCount := s.rxCount + 35#32
      responses := s.responses ++ [[0x00#8, 0x01#8]] }

/-- PUT: the encoded record in one write bracket; a truncated name is a warning (R243, R217, R285). -/
def Obligations.PutWritesTheRecord : Prop :=
  ∀ (n : Byte) (rd : RD) (s : State), Ready s → s.mode = .idle →
    channelOk n = true → fieldFailure allFields rd = none → Answered writeReads s →
    exec (.put n rd) s = .next { peerAfter 3 s with
      flags := setBit (setBit s.flags 2 (decide (12 < rd.name.length))) 0 false
      reqChan := n
      addrReg := n
      ckReg := checksum (rencode (recordOf rd))
      recBuf := Memory.ofBytes (rencode (recordOf rd))
      transcript := s.transcript ++ writeEvents n (rencode (recordOf rd))
      txCount := s.txCount + 37#32
      rxCount := s.rxCount + 3#32
      responses := s.responses ++ [[if 12 < rd.name.length then 0x01#8 else 0x00#8]] }

/-- ERASE: the erase pattern in one write bracket, with checksum 0xE0 (R244, R132). -/
def Obligations.EraseWritesTheErasePattern : Prop :=
  ∀ (n : Byte) (s : State), Ready s → s.mode = .idle → channelOk n = true → Answered writeReads s →
    exec (.erase n) s = .next { peerAfter 3 s with
      flags := setBit (setBit s.flags 2 false) 0 false
      reqChan := n
      addrReg := n
      ckReg := 0xE0#8
      recBuf := Memory.ofBytes (List.replicate 32 0xFF#8)
      transcript := s.transcript ++ writeEvents n (List.replicate 32 0xFF#8)
      txCount := s.txCount + 37#32
      rxCount := s.rxCount + 3#32
      responses := s.responses ++ [[0x00#8]] }

/-- WRITE_NEW: the default record with the supplied fields, in one write bracket (R245). What the default
record encodes to (R172), and which field of a merge comes from the descriptor, with the name cut to 12
bytes, and which from the base, mask bit by mask bit (R173, R93), are said first. -/
def Obligations.WriteNewMergesIntoTheDefaults : Prop :=
  (rencode defaultRecord =
      [0x18#8, 0x2D#8, 0xDD#8, 0x00#8, 0x18#8, 0x2D#8, 0xDD#8, 0x00#8, 0x00#8, 0x00#8, 0x00#8, 0x00#8, 0x00#8,
        0x00#8, 0x00#8, 0xF9#8, 0xFF#8, 0xFF#8, 0xFF#8, 0xFF#8] ++ List.replicate 12 0x00#8 ∧
    checksum (rencode defaultRecord) = 0x39#8) ∧
  (∀ (base : Record) (m : Word16) (rd : RD),
    (merge base m rd).rx = (if m.getLsbD 0 = true then rd.rx else base.rx) ∧
    (merge base m rd).tx = (if m.getLsbD 1 = true then rd.tx else base.tx) ∧
    (merge base m rd).rxt = (if m.getLsbD 2 = true then rd.rxt else base.rxt) ∧
    (merge base m rd).txt = (if m.getLsbD 3 = true then rd.txt else base.txt) ∧
    (merge base m rd).pwr = (if m.getLsbD 4 = true then rd.pwr else base.pwr) ∧
    (merge base m rd).g =
      (if m.getLsbD 5 = true then ⟨rd.g0.setWidth 4, rd.g1.setWidth 4, rd.g2.setWidth 4, rd.g3.setWidth 4⟩
        else base.g) ∧
    (rd.modulation.toNat ≤ 3 → (modulationCode (merge base m rd).modulation).toNat =
      (if m.getLsbD 6 = true then rd.modulation.toNat else (modulationCode base.modulation).toNat)) ∧
    (rd.bandwidth.toNat ≤ 1 → (bandwidthCode (merge base m rd).bandwidth).toNat =
      (if m.getLsbD 7 = true then rd.bandwidth.toNat else (bandwidthCode base.bandwidth).toNat)) ∧
    (m.getLsbD 6 = false → (merge base m rd).modulation = base.modulation) ∧
    (m.getLsbD 7 = false → (merge base m rd).bandwidth = base.bandwidth) ∧
    (merge base m rd).name = (if m.getLsbD 8 = true then rd.name.take 12 else base.name)) ∧
  ∀ (n : Byte) (m : Word16) (rd : RD) (s : State), Ready s → s.mode = .idle →
    channelOk n = true → fieldFailure m rd = none → Answered writeReads s →
    exec (.writeNew n m rd) s = .next { peerAfter 3 s with
      flags := setBit (setBit s.flags 2 (truncates m rd)) 0 false
      reqChan := n
      addrReg := n
      ckReg := checksum (rencode (merge defaultRecord m rd))
      recBuf := Memory.ofBytes (rencode (merge defaultRecord m rd))
      transcript := s.transcript ++ writeEvents n (rencode (merge defaultRecord m rd))
      txCount := s.txCount + 37#32
      rxCount := s.rxCount + 3#32
      responses := s.responses ++ [[if truncates m rd then 0x01#8 else 0x00#8]] }

/-- UPDATE: a read bracket, the supplied fields merged into the record read, and a write bracket of its
own (R246, R63, R76). -/
def Obligations.UpdateMergesIntoTheRecordRead : Prop :=
  ∀ (n : Byte) (m : Word16) (rd : RD) (d : List Byte) (s : State), Ready s →
    s.mode = .idle → channelOk n = true → fieldFailure m rd = none → d.length = 32 →
    (∃ b ∈ d, b ≠ 0xFF#8) → Answered (readReads d ++ writeReads) s →
    exec (.update n m rd) s = .next { peerAfter 6 s with
      flags := setBit (setBit (setBit s.flags 2 (truncates m rd)) 3 false) 0 false
      reqChan := n
      addrReg := n
      ckReg := checksum (rencode (merge (rdecode d) m rd))
      recBuf := Memory.ofBytes (rencode (merge (rdecode d) m rd))
      transcript := s.transcript ++ readEvents n d ++ writeEvents n (rencode (merge (rdecode d) m rd))
      txCount := s.txCount + 41#32
      rxCount := s.rxCount + 38#32
      responses := s.responses ++ [[if truncates m rd then 0x01#8 else 0x00#8]] }

/-- UPDATE of an empty slot raises UPDATE_EMPTY_SLOT after its read bracket has completed (R246,
R328). What STEP is frozen at and `reqChan` are the model's (log entries 2 and 9). -/
def Obligations.UpdateOfAnEmptySlotFaults : Prop :=
  ∀ (n : Byte) (m : Word16) (rd : RD) (s : State), Ready s → s.mode = .idle →
    channelOk n = true → fieldFailure m rd = none → Answered (readReads (List.replicate 32 0xFF#8)) s →
    exec (.update n m rd) s = .next { peerAfter 3 s with
      mode := .faulted
      errCode := .updateEmptySlot
      errSub := 0#8
      errExpected := 0#9
      errReceived := 0#9
      errChan := n
      errCmd := 0#8
      flags := setBit (setBit (setBit s.flags 2 (truncates m rd)) 0 false) 3 true
      reqChan := n
      addrReg := n
      ckReg := 0xE0#8
      recBuf := Memory.ofBytes (List.replicate 32 0xFF#8)
      stepPtr := [.requireSlot n, .localValue, .localValue, .encodeMerged m rd, .checkMerged m rd] ++
        bracketWrite n ++ finishIdle
      transcript := s.transcript ++ readEvents n (List.replicate 32 0xFF#8)
      txCount := s.txCount + 4#32
      rxCount := s.rxCount + 35#32
      responses := s.responses ++ [[0x88#8, 0#8, 0#8, 0#8, 0#8, 0#8, n, 0#8]] }

/-- EXPORT_ALL of a radio whose slots are `slot`: 198 read brackets in ascending order, an item for
every slot that is not empty, and the final status (R247). -/
def Obligations.ExportAllDeliversEveryProgrammedChannel : Prop :=
  ∀ (slot : Byte → List Byte) (s : State), Ready s → s.mode = .idle →
    (∀ n, (slot n).length = 32) → Answered (channels.flatMap fun n => readReads (slot n)) s →
    exec .exportAll s = .next { peerAfter 594 s with
      flags := setBit (setBit (setBit s.flags 2 false) 0 false) 3 (isEmptyRecord (slot 198#8))
      chanCtr := 198#8
      reqChan := 198#8
      addrReg := 198#8
      ckReg := checksum (slot 198#8)
      recBuf := Memory.ofBytes (slot 198#8)
      transcript := s.transcript ++ channels.flatMap (fun n => readEvents n (slot n))
      txCount := s.txCount + 792#32
      rxCount := s.rxCount + 6930#32
      responses := s.responses ++ exportItems slot ++ [[0x00#8]] }

/-- IMPORT_ALL of valid entries: every one of the 198 slots written, with its record or the erase
pattern, then the radio's reset, and MODE is TERMINATED (R248 to R250). What each slot gets is said first:
the bytes of its entry's descriptor, or 0xFF throughout (R248, R249). -/
def Obligations.ImportAllWritesEverySlot : Prop :=
  (∀ entries : List (Byte × RD), ImportValid entries →
    (∀ e ∈ entries, slotBytes (importedSet entries) e.1 = rencode (recordOf e.2)) ∧
    ∀ n, n ∉ entries.map Prod.fst → slotBytes (importedSet entries) n = List.replicate 32 0xFF#8) ∧
  ∀ (entries : List (Byte × RD)) (s : State), Ready s → s.mode = .idle → workingSetWf s.ws = true →
    ImportValid entries → Answered (channels.flatMap fun _ => writeReads) s →
    exec (.importAll entries) s = .next { peerAfter 594 s with
      mode := .terminated
      flags := setBit (setBit s.flags 2 (entries.any fun e => truncates allFields e.2)) 0 false
      chanCtr := 198#8
      reqChan := 198#8
      ws := importedSet entries
      addrReg := 198#8
      ckReg := checksum (slotBytes (importedSet entries) 198#8)
      recBuf := Memory.ofBytes (slotBytes (importedSet entries) 198#8)
      transcript := s.transcript ++
        channels.flatMap (fun n => writeEvents n (slotBytes (importedSet entries) n)) ++ [.tx 0x49#8]
      txCount := s.txCount + 7327#32
      rxCount := s.rxCount + 594#32
      responses := s.responses ++
        [[if entries.any fun e => truncates allFields e.2 then 0x01#8 else 0x00#8]] }

/-! ### Session, auxiliary and transport requests -/

/-- SEND_KEYS of at least one valid code: one remote session, and for each code the two bytes and the
two dwells of R215 (R300). -/
def Obligations.SendKeysDeliversTheSequence : Prop :=
  ∀ (codes : List Byte) (s : State), Ready s → s.mode = .idle → codes ≠ [] →
    (∀ c ∈ codes, c.toNat ≤ 126) → Answered [(1, [0x4A#8]), (1, [0x4B#8])] s →
    exec (.sendKeys codes) s = .next { peerAfter 2 s with
      flags := setBit (setBit s.flags 2 false) 1 false
      reqChan := 0#8
      transcript := s.transcript ++ sessionEvents codes
      txCount := s.txCount + BitVec.ofNat 32 (2 * codes.length + 2)
      rxCount := s.rxCount + 2#32
      responses := s.responses ++ [[0x00#8]] }

/-- SEND_KEYS of no code sends nothing; of a code above 126 it raises VALIDATION with field 11 and sends
nothing (R300, R290). -/
def Obligations.SendKeysWithoutAValidSequence : Prop :=
  ∀ s : State, Ready s → s.mode = .idle →
    (exec (.sendKeys []) s = .next { s with
      flags := setBit s.flags 2 false, reqChan := 0#8, responses := s.responses ++ [[0x00#8]] }) ∧
    (∀ codes : List Byte, (∃ c ∈ codes, 126 < c.toNat) →
      exec (.sendKeys codes) s = .next { validationFault 11#8 0#8 s with
        flags := setBit s.flags 2 false, reqChan := 0#8, stepPtr := sendKeysOps codes })

/-- FLASH_ON, FLASH_OFF and RESET_RADIO each send their one byte and answer OK; after RESET_RADIO MODE
is TERMINATED, after the others IDLE (R301 to R303). -/
def Obligations.OneByteRequestsComplete : Prop :=
  ∀ s : State, Ready s → s.mode = .idle →
    ∀ p : Instr × Byte × Mode,
      p ∈ [(Instr.flashOn, 0x47#8, Mode.idle), (.flashOff, 0x48#8, .idle), (.resetRadio, 0x49#8, .terminated)] →
      exec p.1 s = .next { s with
        mode := p.2.2
        flags := setBit s.flags 2 false
        reqChan := 0#8
        transcript := s.transcript ++ [.tx p.2.1]
        txCount := s.txCount + 1#32
        responses := s.responses ++ [[0x00#8]] }

/-- READ_BATTERY in IDLE is refused: REFUSED_MARK set, MODE REFUSED, the response FE, and nothing
transmitted; no fault is latched (R304, R334). That STEP then awaits a request, and `reqChan`, are the
model's (log entries 14 and 9). -/
def Obligations.ReadBatteryIsRefused : Prop :=
  ∀ s : State, Ready s → s.mode = .idle →
    exec .readBattery s = .next { s with
      mode := .refused
      flags := setBit (setBit s.flags 2 false) 4 true
      reqChan := 0#8
      responses := s.responses ++ [[0xFE#8]] }

/-- OPEN in CLOSED: IDLE when the device opens, TRANSPORT_OPEN when it does not, be the outcome listed or
open; nothing is transmitted either way (R305, R321). What STEP is frozen at is the model's (log entry 2). -/
def Obligations.OpenOpensOrFaults : Prop :=
  ∀ s : State, Ready s → s.mode = .closed →
    (openingOk s = true →
      exec .openTransport s = .next { openingUsed s with
        mode := .idle
        flags := setBit s.flags 2 false
        reqChan := 0#8
        responses := s.responses ++ [[0x00#8]] }) ∧
    (openingOk s = false →
      exec .openTransport s = .next { openingUsed s with
        mode := .faulted
        errCode := .transportOpen
        errSub := 0#8
        errExpected := 0#9
        errReceived := 0#9
        errChan := 0#8
        errCmd := 0#8
        flags := setBit s.flags 2 false
        reqChan := 0#8
        stepPtr := [.requireOpen, .complete false, .respond]
        responses := s.responses ++ [[0x81#8, 0#8, 0#8, 0#8, 0#8, 0#8, 0#8, 0#8]] })

/-! ### Pure requests

That they set `reqChan` to 0, having no channel operand, is the model's (log entry 9). -/

/-- CHECKSUM answers the checksum and leaves it in CK_REG, in CLOSED, IDLE and TERMINATED alike
(R131, R22). -/
def Obligations.ChecksumRequestAnswers : Prop :=
  ∀ (d : List Byte) (s : State), accepts s = true → s.budget = none →
    exec (.checksum d) s = .next { s with
      flags := setBit s.flags 2 false
      reqChan := 0#8
      ckReg := checksum d
      responses := s.responses ++ [[0x00#8, checksum d]] }

/-- GROUP_DECODE answers the four nibbles, lowest first (R145, R141). -/
def Obligations.GroupDecodeAnswers : Prop :=
  ∀ (b0 b1 : Byte) (s : State), accepts s = true → s.budget = none →
    exec (.groupDecode b0 b1) s = .next { s with
      flags := setBit s.flags 2 false
      reqChan := 0#8
      responses := s.responses ++ [[0x00#8, BitVec.ofNat 8 (b0.toNat % 16), BitVec.ofNat 8 (b0.toNat / 16),
        BitVec.ofNat 8 (b1.toNat % 16), BitVec.ofNat 8 (b1.toNat / 16)]] }

/-- GROUP_ENCODE packs at most four values 0..15, missing ones as 0, and raises VALIDATION with field 7
otherwise (R146, R142, R286). -/
def Obligations.GroupEncodePacksOrFaults : Prop :=
  ∀ (g : List Byte) (s : State), accepts s = true → s.budget = none →
    (g.length ≤ 4 → (∀ v ∈ g, v.toNat ≤ 15) →
      exec (.groupEncode g) s = .next { s with
        flags := setBit s.flags 2 false
        reqChan := 0#8
        responses := s.responses ++ [[0x00#8,
          BitVec.ofNat 8 ((g.getD 0 0#8).toNat + 16 * (g.getD 1 0#8).toNat),
          BitVec.ofNat 8 ((g.getD 2 0#8).toNat + 16 * (g.getD 3 0#8).toNat)]] }) ∧
    ((4 < g.length ∨ ∃ v ∈ g, 15 < v.toNat) →
      exec (.groupEncode g) s = .next { validationFault 7#8 0#8 s with
        flags := setBit s.flags 2 false, reqChan := 0#8, stepPtr := groupEncodeOps g })

/-- GROUP_FROM_LETTERS maps at most four of 'A'..'O', 'a'..'o' and '0', and raises VALIDATION with field
7 otherwise (R147, R143, R287). -/
def Obligations.GroupFromLettersMapsOrFaults : Prop :=
  ∀ (t : List Byte) (s : State), accepts s = true → s.budget = none →
    (t.length ≤ 4 → (∀ c ∈ t, (0x41 ≤ c.toNat ∧ c.toNat ≤ 0x4F) ∨ (0x61 ≤ c.toNat ∧ c.toNat ≤ 0x6F) ∨ c.toNat = 0x30) →
      exec (.groupFromLetters t) s = .next { s with
        flags := setBit s.flags 2 false
        reqChan := 0#8
        responses := s.responses ++ [0x00#8 :: BitVec.ofNat 8 t.length :: t.map fun c =>
          if c.toNat = 0x30 then 0#8 else if c.toNat ≤ 0x4F then c - 0x40#8 else c - 0x60#8] }) ∧
    ((4 < t.length ∨
        ∃ c ∈ t, ¬(0x41 ≤ c.toNat ∧ c.toNat ≤ 0x4F) ∧ ¬(0x61 ≤ c.toNat ∧ c.toNat ≤ 0x6F) ∧ c.toNat ≠ 0x30) →
      exec (.groupFromLetters t) s = .next { validationFault 7#8 0#8 s with
        flags := setBit s.flags 2 false, reqChan := 0#8, stepPtr := groupFromLettersOps t })

/-- GROUP_TO_LETTERS maps at most four values, 1..15 to 'A'..'O' and every other value to '0', and raises
VALIDATION with field 7 for more than four (R148, R144). -/
def Obligations.GroupToLettersMapsOrFaults : Prop :=
  ∀ (v : List Byte) (s : State), accepts s = true → s.budget = none →
    (v.length ≤ 4 →
      exec (.groupToLetters v) s = .next { s with
        flags := setBit s.flags 2 false
        reqChan := 0#8
        responses := s.responses ++ [0x00#8 :: BitVec.ofNat 8 v.length :: v.map fun x =>
          if 1 ≤ x.toNat ∧ x.toNat ≤ 15 then 0x40#8 + x else 0x30#8] }) ∧
    (4 < v.length →
      exec (.groupToLetters v) s = .next { validationFault 7#8 0#8 s with
        flags := setBit s.flags 2 false, reqChan := 0#8, stepPtr := groupToLettersOps v })

/-- RECORD_DECODE answers the descriptor of the decoded record, empty or not (R174, R161, R95), the name
being what is left of its 12 bytes when the 0x00 bytes at the end are removed (R164). These are the bytes
GET and EXPORT_ALL answer of the same slot. -/
def Obligations.RecordDecodeAnswers : Prop :=
  ∀ (d bytes : List Byte) (s : State), accepts s = true → s.budget = none → d.length = 32 →
    bytes = d.take 13 ++
      [BitVec.ofNat 8 ((byteAt d 13).toNat % 16), BitVec.ofNat 8 ((byteAt d 13).toNat / 16),
        BitVec.ofNat 8 ((byteAt d 14).toNat % 16), BitVec.ofNat 8 ((byteAt d 14).toNat / 16),
        BitVec.ofNat 8 ((byteAt d 15).toNat / 2 % 4), BitVec.ofNat 8 ((byteAt d 15).toNat % 2),
        BitVec.ofNat 8 (strip0 (d.drop 20)).length] ++ strip0 (d.drop 20) →
    recordRD (rdecode d) = bytes ∧
    (∃ k, d.drop 20 = strip0 (d.drop 20) ++ List.replicate k 0x00#8) ∧
    (strip0 (d.drop 20)).getLast? ≠ some 0x00#8 ∧
    exec (.recordDecode d) s = .next { s with
      flags := setBit s.flags 2 false
      reqChan := 0#8
      responses := s.responses ++ [0x00#8 :: bytes] }

/-- RECORD_ENCODE of a valid descriptor leaves in REC_BUF, and answers, its 32 bytes: the fields low byte
first, the packed groups, the flags byte with its reserved bits 1, the reserved bytes, and the first 12
bytes of the name padded with 0x00; a truncated name is a warning (R175, R165, R285). These are the bytes of
the record the other requests make of the descriptor. -/
def Obligations.RecordEncodeAnswers : Prop :=
  ∀ (rd : RD) (bytes : List Byte) (s : State), accepts s = true → s.budget = none →
    fieldFailure allFields rd = none →
    bytes =
      (List.range 4).map (fun i => BitVec.ofNat 8 (rd.rx.toNat / 256 ^ i)) ++
      (List.range 4).map (fun i => BitVec.ofNat 8 (rd.tx.toNat / 256 ^ i)) ++
      (List.range 2).map (fun i => BitVec.ofNat 8 (rd.rxt.toNat / 256 ^ i)) ++
      (List.range 2).map (fun i => BitVec.ofNat 8 (rd.txt.toNat / 256 ^ i)) ++
      [rd.pwr, BitVec.ofNat 8 (rd.g0.toNat + 16 * rd.g1.toNat), BitVec.ofNat 8 (rd.g2.toNat + 16 * rd.g3.toNat),
        BitVec.ofNat 8 (0xF8 + 2 * rd.modulation.toNat + rd.bandwidth.toNat), 0xFF#8, 0xFF#8, 0xFF#8, 0xFF#8] ++
      (rd.name.take 12 ++ List.replicate (12 - rd.name.length) 0x00#8) →
    rencode (recordOf rd) = bytes ∧
    exec (.recordEncode rd) s = .next { s with
      flags := setBit s.flags 2 (decide (12 < rd.name.length))
      reqChan := 0#8
      recBuf := Memory.ofBytes bytes
      responses := s.responses ++ [(if 12 < rd.name.length then 0x01#8 else 0x00#8) :: bytes] }

/-- IS_EMPTY answers whether all 32 bytes are 0xFF, and LAST_EMPTY records it (R176, R170); the test is
the one EXPORT_ALL leaves slots out by. -/
def Obligations.IsEmptyAnswers : Prop :=
  ∀ (d : List Byte) (s : State), accepts s = true → s.budget = none → d.length = 32 →
    ((∀ b ∈ d, b = 0xFF#8) →
      isEmptyRecord d = true ∧
      exec (.isEmpty d) s = .next { s with
        flags := setBit (setBit s.flags 2 false) 3 true, reqChan := 0#8
        responses := s.responses ++ [[0x00#8, 0x01#8]] }) ∧
    ((∃ b ∈ d, b ≠ 0xFF#8) →
      isEmptyRecord d = false ∧
      exec (.isEmpty d) s = .next { s with
        flags := setBit (setBit s.flags 2 false) 3 false, reqChan := 0#8
        responses := s.responses ++ [[0x00#8, 0x00#8]] })

/-! ### The codecs -/

/-- The checksum is the sum of the byte values modulo 256 (R130), hence additive over concatenation,
blind to order, and moved by the change of one byte (R134). -/
def Obligations.ChecksumIsTheSumModulo256 : Prop :=
  (∀ s : List Byte, (checksum s).toNat = (s.map BitVec.toNat).sum % 256) ∧
  (∀ s t : List Byte, checksum (s ++ t) = checksum s + checksum t) ∧
  (∀ s t : List Byte, s.Perm t → checksum s = checksum t) ∧
  (∀ (a c : List Byte) (b k : Byte), checksum (a ++ (b + k) :: c) = checksum (a ++ b :: c) + k) ∧
  checksum [] = 0#8 ∧ checksum (List.replicate 32 0xFF#8) = 224#8

/-- The round trips of the group codec and of the letters (R149). -/
def Obligations.GroupCodecRoundTrips : Prop :=
  (∀ b0 b1 : Byte, gencode (gdecode b0 b1) = (b0, b1)) ∧
  (∀ g : Groups, gdecode (gencode g).1 (gencode g).2 = g) ∧
  (∀ g : List Byte, g.length ≤ 4 → (∀ v ∈ g, v.toNat ≤ 15) →
    groupBytes (gdecode (gencode (padGroups g)).1 (gencode (padGroups g)).2) =
      g ++ List.replicate (4 - g.length) 0#8) ∧
  (∀ t v : List Byte, lettersToNumbers t = some v →
    numbersToLetters v = t.map fun c => if 0x61 ≤ c.toNat then c - 0x20#8 else c)

/-- Value first: a record whose name fits and does not end in 0x00 is what its encoding decodes to; of
any other name that fits, the trailing 0x00 bytes are lost (R177). -/
def Obligations.RecordValueRoundTrip : Prop :=
  ∀ r : Record, r.name.length ≤ 12 →
    rdecode (rencode r) = { r with name := strip0 r.name } ∧
    (r.name.getLast? ≠ some 0x00#8 → rdecode (rencode r) = r)

/-- Bytes first: re-encoding a decoded record changes the reserved flag bits and bytes alone (R178). -/
def Obligations.RecordBytesRoundTrip : Prop :=
  ∀ s : List Byte, s.length = 32 →
    rencode (rdecode s) =
      s.take 15 ++ [byteAt s 15 ||| 0xF8#8] ++ [0xFF#8, 0xFF#8, 0xFF#8, 0xFF#8] ++ s.drop 20

/-- The layout of the encoded record (R100 to R109, R165 to R169): each field at its offset, low byte
first, the reserved bits and bytes 1, the name padded with 0x00, and 32 bytes in all. -/
def Obligations.EncodedRecordLayout : Prop :=
  ∀ r : Record, r.name.length ≤ 12 →
    (rencode r).length = 32 ∧
    (∀ i, i < 4 → (byteAt (rencode r) i).toNat = r.rx.toNat / 256 ^ i % 256) ∧
    (∀ i, i < 4 → (byteAt (rencode r) (4 + i)).toNat = r.tx.toNat / 256 ^ i % 256) ∧
    (∀ i, i < 2 → (byteAt (rencode r) (8 + i)).toNat = r.rxt.toNat / 256 ^ i % 256) ∧
    (∀ i, i < 2 → (byteAt (rencode r) (10 + i)).toNat = r.txt.toNat / 256 ^ i % 256) ∧
    byteAt (rencode r) 12 = r.pwr ∧
    (byteAt (rencode r) 13).toNat = r.g.g0.toNat + 16 * r.g.g1.toNat ∧
    (byteAt (rencode r) 14).toNat = r.g.g2.toNat + 16 * r.g.g3.toNat ∧
    (byteAt (rencode r) 15).toNat =
      0xF8 + 2 * (modulationCode r.modulation).toNat + (bandwidthCode r.bandwidth).toNat ∧
    (∀ i, i < 4 → byteAt (rencode r) (16 + i) = 0xFF#8) ∧
    (∀ i, i < 12 → byteAt (rencode r) (20 + i) = r.name.getD i 0x00#8)

/-! ### Invariants -/

/-- The reset state has the invariant. -/
def Obligations.ResetHasTheInvariant : Prop := StateInv State.reset

/-- Every step keeps the invariant, from every state that has it: reserved FLAGS bits 0 (R23),
REFUSED_MARK exactly in REFUSED (R28), a fault latched exactly in FAULTED (R29), REC_BUF and WS
canonical, the counters equal to the transcript's byte counts (R36, R37), and reads of 1 or 33 bytes
only (R70). -/
def Obligations.StepKeepsTheInvariant : Prop :=
  ∀ s t : State, StateInv s → step s = .next t → StateInv t

/-- The transcript and the response stream are empty after block reset, and every step that is not a
block reset only adds to them (R45). -/
def Obligations.LogsOnlyGrowUntilBlockReset : Prop :=
  (∀ s : State, (blockReset s).transcript = [] ∧ (blockReset s).responses = []) ∧
  ∀ s t : State, step s = .next t → (∀ rest, s.host ≠ .blockReset :: rest) →
    s.transcript <+: t.transcript ∧ s.responses <+: t.responses
end

