-- ==== Sys2Proof/Laws/State.lean ====
section
/-! SUPPORT. One lemma per field per named update of the state: what the update writes, and that it
leaves every other field. -/

namespace Sys2Proof.Machine

/-! ### `tx` -/

@[simp] theorem tx_mode (b : Byte) (s : State) : (tx b s).mode = s.mode := rfl
@[simp] theorem tx_flags (b : Byte) (s : State) : (tx b s).flags = s.flags := rfl
@[simp] theorem tx_errCode (b : Byte) (s : State) : (tx b s).errCode = s.errCode := rfl
@[simp] theorem tx_errSub (b : Byte) (s : State) : (tx b s).errSub = s.errSub := rfl
@[simp] theorem tx_errExpected (b : Byte) (s : State) : (tx b s).errExpected = s.errExpected := rfl
@[simp] theorem tx_errReceived (b : Byte) (s : State) : (tx b s).errReceived = s.errReceived := rfl
@[simp] theorem tx_errChan (b : Byte) (s : State) : (tx b s).errChan = s.errChan := rfl
@[simp] theorem tx_errCmd (b : Byte) (s : State) : (tx b s).errCmd = s.errCmd := rfl
@[simp] theorem tx_chanCtr (b : Byte) (s : State) : (tx b s).chanCtr = s.chanCtr := rfl
@[simp] theorem tx_txCount (b : Byte) (s : State) : (tx b s).txCount = s.txCount + 1#32 := rfl
@[simp] theorem tx_rxCount (b : Byte) (s : State) : (tx b s).rxCount = s.rxCount := rfl
@[simp] theorem tx_recBuf (b : Byte) (s : State) : (tx b s).recBuf = s.recBuf := rfl
@[simp] theorem tx_ckReg (b : Byte) (s : State) : (tx b s).ckReg = s.ckReg := rfl
@[simp] theorem tx_addrReg (b : Byte) (s : State) : (tx b s).addrReg = s.addrReg := rfl
@[simp] theorem tx_ws (b : Byte) (s : State) : (tx b s).ws = s.ws := rfl
@[simp] theorem tx_stepPtr (b : Byte) (s : State) : (tx b s).stepPtr = s.stepPtr := rfl
@[simp] theorem tx_transcript (b : Byte) (s : State) : (tx b s).transcript = s.transcript ++ [.tx b] := rfl
@[simp] theorem tx_responses (b : Byte) (s : State) : (tx b s).responses = s.responses := rfl
@[simp] theorem tx_reqChan (b : Byte) (s : State) : (tx b s).reqChan = s.reqChan := rfl
@[simp] theorem tx_port (b : Byte) (s : State) : (tx b s).port = s.port := rfl
@[simp] theorem tx_host (b : Byte) (s : State) : (tx b s).host = s.host := rfl
@[simp] theorem tx_budget (b : Byte) (s : State) : (tx b s).budget = s.budget := rfl
@[simp] theorem tx_statusReads (b : Byte) (s : State) : (tx b s).statusReads = s.statusReads := rfl
@[simp] theorem tx_peer (b : Byte) (s : State) : (tx b s).peer = s.peer := rfl
@[simp] theorem tx_peerDraws (b : Byte) (s : State) : (tx b s).peerDraws = s.peerDraws := rfl
@[simp] theorem tx_openings (b : Byte) (s : State) : (tx b s).openings = s.openings := rfl
@[simp] theorem tx_openDraws (b : Byte) (s : State) : (tx b s).openDraws = s.openDraws := rfl

/-! ### `dwell` -/

@[simp] theorem dwell_mode (s : State) : (dwell s).mode = s.mode := rfl
@[simp] theorem dwell_flags (s : State) : (dwell s).flags = s.flags := rfl
@[simp] theorem dwell_errCode (s : State) : (dwell s).errCode = s.errCode := rfl
@[simp] theorem dwell_errSub (s : State) : (dwell s).errSub = s.errSub := rfl
@[simp] theorem dwell_errExpected (s : State) : (dwell s).errExpected = s.errExpected := rfl
@[simp] theorem dwell_errReceived (s : State) : (dwell s).errReceived = s.errReceived := rfl
@[simp] theorem dwell_errChan (s : State) : (dwell s).errChan = s.errChan := rfl
@[simp] theorem dwell_errCmd (s : State) : (dwell s).errCmd = s.errCmd := rfl
@[simp] theorem dwell_chanCtr (s : State) : (dwell s).chanCtr = s.chanCtr := rfl
@[simp] theorem dwell_txCount (s : State) : (dwell s).txCount = s.txCount := rfl
@[simp] theorem dwell_rxCount (s : State) : (dwell s).rxCount = s.rxCount := rfl
@[simp] theorem dwell_recBuf (s : State) : (dwell s).recBuf = s.recBuf := rfl
@[simp] theorem dwell_ckReg (s : State) : (dwell s).ckReg = s.ckReg := rfl
@[simp] theorem dwell_addrReg (s : State) : (dwell s).addrReg = s.addrReg := rfl
@[simp] theorem dwell_ws (s : State) : (dwell s).ws = s.ws := rfl
@[simp] theorem dwell_stepPtr (s : State) : (dwell s).stepPtr = s.stepPtr := rfl
@[simp] theorem dwell_transcript (s : State) : (dwell s).transcript = s.transcript ++ [.dwell] := rfl
@[simp] theorem dwell_responses (s : State) : (dwell s).responses = s.responses := rfl
@[simp] theorem dwell_reqChan (s : State) : (dwell s).reqChan = s.reqChan := rfl
@[simp] theorem dwell_port (s : State) : (dwell s).port = s.port := rfl
@[simp] theorem dwell_host (s : State) : (dwell s).host = s.host := rfl
@[simp] theorem dwell_budget (s : State) : (dwell s).budget = s.budget := rfl
@[simp] theorem dwell_statusReads (s : State) : (dwell s).statusReads = s.statusReads := rfl
@[simp] theorem dwell_peer (s : State) : (dwell s).peer = s.peer := rfl
@[simp] theorem dwell_peerDraws (s : State) : (dwell s).peerDraws = s.peerDraws := rfl
@[simp] theorem dwell_openings (s : State) : (dwell s).openings = s.openings := rfl
@[simp] theorem dwell_openDraws (s : State) : (dwell s).openDraws = s.openDraws := rfl

/-! ### `out` -/

@[simp] theorem out_mode (item : List Byte) (s : State) : (out item s).mode = s.mode := rfl
@[simp] theorem out_flags (item : List Byte) (s : State) : (out item s).flags = s.flags := rfl
@[simp] theorem out_errCode (item : List Byte) (s : State) : (out item s).errCode = s.errCode := rfl
@[simp] theorem out_errSub (item : List Byte) (s : State) : (out item s).errSub = s.errSub := rfl
@[simp] theorem out_errExpected (item : List Byte) (s : State) : (out item s).errExpected = s.errExpected := rfl
@[simp] theorem out_errReceived (item : List Byte) (s : State) : (out item s).errReceived = s.errReceived := rfl
@[simp] theorem out_errChan (item : List Byte) (s : State) : (out item s).errChan = s.errChan := rfl
@[simp] theorem out_errCmd (item : List Byte) (s : State) : (out item s).errCmd = s.errCmd := rfl
@[simp] theorem out_chanCtr (item : List Byte) (s : State) : (out item s).chanCtr = s.chanCtr := rfl
@[simp] theorem out_txCount (item : List Byte) (s : State) : (out item s).txCount = s.txCount := rfl
@[simp] theorem out_rxCount (item : List Byte) (s : State) : (out item s).rxCount = s.rxCount := rfl
@[simp] theorem out_recBuf (item : List Byte) (s : State) : (out item s).recBuf = s.recBuf := rfl
@[simp] theorem out_ckReg (item : List Byte) (s : State) : (out item s).ckReg = s.ckReg := rfl
@[simp] theorem out_addrReg (item : List Byte) (s : State) : (out item s).addrReg = s.addrReg := rfl
@[simp] theorem out_ws (item : List Byte) (s : State) : (out item s).ws = s.ws := rfl
@[simp] theorem out_stepPtr (item : List Byte) (s : State) : (out item s).stepPtr = s.stepPtr := rfl
@[simp] theorem out_transcript (item : List Byte) (s : State) : (out item s).transcript = s.transcript := rfl
@[simp] theorem out_responses (item : List Byte) (s : State) : (out item s).responses = s.responses ++ [item] := rfl
@[simp] theorem out_reqChan (item : List Byte) (s : State) : (out item s).reqChan = s.reqChan := rfl
@[simp] theorem out_port (item : List Byte) (s : State) : (out item s).port = s.port := rfl
@[simp] theorem out_host (item : List Byte) (s : State) : (out item s).host = s.host := rfl
@[simp] theorem out_budget (item : List Byte) (s : State) : (out item s).budget = s.budget := rfl
@[simp] theorem out_statusReads (item : List Byte) (s : State) : (out item s).statusReads = s.statusReads := rfl
@[simp] theorem out_peer (item : List Byte) (s : State) : (out item s).peer = s.peer := rfl
@[simp] theorem out_peerDraws (item : List Byte) (s : State) : (out item s).peerDraws = s.peerDraws := rfl
@[simp] theorem out_openings (item : List Byte) (s : State) : (out item s).openings = s.openings := rfl
@[simp] theorem out_openDraws (item : List Byte) (s : State) : (out item s).openDraws = s.openDraws := rfl

/-! ### `raise` -/

@[simp] theorem raise_mode (c : FaultClass) (i : FaultInfo) (s : State) : (raise c i s).mode = .faulted := rfl
@[simp] theorem raise_flags (c : FaultClass) (i : FaultInfo) (s : State) : (raise c i s).flags = s.flags := rfl
@[simp] theorem raise_errCode (c : FaultClass) (i : FaultInfo) (s : State) : (raise c i s).errCode = c := rfl
@[simp] theorem raise_errSub (c : FaultClass) (i : FaultInfo) (s : State) : (raise c i s).errSub = i.sub := rfl
@[simp] theorem raise_errExpected (c : FaultClass) (i : FaultInfo) (s : State) : (raise c i s).errExpected = latched i.expected := rfl
@[simp] theorem raise_errReceived (c : FaultClass) (i : FaultInfo) (s : State) : (raise c i s).errReceived = latched i.received := rfl
@[simp] theorem raise_errChan (c : FaultClass) (i : FaultInfo) (s : State) : (raise c i s).errChan = i.chan := rfl
@[simp] theorem raise_errCmd (c : FaultClass) (i : FaultInfo) (s : State) : (raise c i s).errCmd = i.cmd := rfl
@[simp] theorem raise_chanCtr (c : FaultClass) (i : FaultInfo) (s : State) : (raise c i s).chanCtr = s.chanCtr := rfl
@[simp] theorem raise_txCount (c : FaultClass) (i : FaultInfo) (s : State) : (raise c i s).txCount = s.txCount := rfl
@[simp] theorem raise_rxCount (c : FaultClass) (i : FaultInfo) (s : State) : (raise c i s).rxCount = s.rxCount := rfl
@[simp] theorem raise_recBuf (c : FaultClass) (i : FaultInfo) (s : State) : (raise c i s).recBuf = s.recBuf := rfl
@[simp] theorem raise_ckReg (c : FaultClass) (i : FaultInfo) (s : State) : (raise c i s).ckReg = s.ckReg := rfl
@[simp] theorem raise_addrReg (c : FaultClass) (i : FaultInfo) (s : State) : (raise c i s).addrReg = s.addrReg := rfl
@[simp] theorem raise_ws (c : FaultClass) (i : FaultInfo) (s : State) : (raise c i s).ws = s.ws := rfl
@[simp] theorem raise_stepPtr (c : FaultClass) (i : FaultInfo) (s : State) : (raise c i s).stepPtr = s.stepPtr := rfl
@[simp] theorem raise_transcript (c : FaultClass) (i : FaultInfo) (s : State) : (raise c i s).transcript = s.transcript := rfl
@[simp] theorem raise_responses (c : FaultClass) (i : FaultInfo) (s : State) : (raise c i s).responses = s.responses ++ [faultFrame c i] := rfl
@[simp] theorem raise_reqChan (c : FaultClass) (i : FaultInfo) (s : State) : (raise c i s).reqChan = s.reqChan := rfl
@[simp] theorem raise_port (c : FaultClass) (i : FaultInfo) (s : State) : (raise c i s).port = s.port := rfl
@[simp] theorem raise_host (c : FaultClass) (i : FaultInfo) (s : State) : (raise c i s).host = s.host := rfl
@[simp] theorem raise_budget (c : FaultClass) (i : FaultInfo) (s : State) : (raise c i s).budget = s.budget := rfl
@[simp] theorem raise_statusReads (c : FaultClass) (i : FaultInfo) (s : State) : (raise c i s).statusReads = s.statusReads := rfl
@[simp] theorem raise_peer (c : FaultClass) (i : FaultInfo) (s : State) : (raise c i s).peer = s.peer := rfl
@[simp] theorem raise_peerDraws (c : FaultClass) (i : FaultInfo) (s : State) : (raise c i s).peerDraws = s.peerDraws := rfl
@[simp] theorem raise_openings (c : FaultClass) (i : FaultInfo) (s : State) : (raise c i s).openings = s.openings := rfl
@[simp] theorem raise_openDraws (c : FaultClass) (i : FaultInfo) (s : State) : (raise c i s).openDraws = s.openDraws := rfl

/-! ### `writeFlag` -/

@[simp] theorem writeFlag_mode (f : Flag) (b : Bool) (s : State) : (writeFlag f b s).mode = s.mode := rfl
@[simp] theorem writeFlag_flags (f : Flag) (b : Bool) (s : State) : (writeFlag f b s).flags = setBit s.flags (flagBit f) b := rfl
@[simp] theorem writeFlag_errCode (f : Flag) (b : Bool) (s : State) : (writeFlag f b s).errCode = s.errCode := rfl
@[simp] theorem writeFlag_errSub (f : Flag) (b : Bool) (s : State) : (writeFlag f b s).errSub = s.errSub := rfl
@[simp] theorem writeFlag_errExpected (f : Flag) (b : Bool) (s : State) : (writeFlag f b s).errExpected = s.errExpected := rfl
@[simp] theorem writeFlag_errReceived (f : Flag) (b : Bool) (s : State) : (writeFlag f b s).errReceived = s.errReceived := rfl
@[simp] theorem writeFlag_errChan (f : Flag) (b : Bool) (s : State) : (writeFlag f b s).errChan = s.errChan := rfl
@[simp] theorem writeFlag_errCmd (f : Flag) (b : Bool) (s : State) : (writeFlag f b s).errCmd = s.errCmd := rfl
@[simp] theorem writeFlag_chanCtr (f : Flag) (b : Bool) (s : State) : (writeFlag f b s).chanCtr = s.chanCtr := rfl
@[simp] theorem writeFlag_txCount (f : Flag) (b : Bool) (s : State) : (writeFlag f b s).txCount = s.txCount := rfl
@[simp] theorem writeFlag_rxCount (f : Flag) (b : Bool) (s : State) : (writeFlag f b s).rxCount = s.rxCount := rfl
@[simp] theorem writeFlag_recBuf (f : Flag) (b : Bool) (s : State) : (writeFlag f b s).recBuf = s.recBuf := rfl
@[simp] theorem writeFlag_ckReg (f : Flag) (b : Bool) (s : State) : (writeFlag f b s).ckReg = s.ckReg := rfl
@[simp] theorem writeFlag_addrReg (f : Flag) (b : Bool) (s : State) : (writeFlag f b s).addrReg = s.addrReg := rfl
@[simp] theorem writeFlag_ws (f : Flag) (b : Bool) (s : State) : (writeFlag f b s).ws = s.ws := rfl
@[simp] theorem writeFlag_stepPtr (f : Flag) (b : Bool) (s : State) : (writeFlag f b s).stepPtr = s.stepPtr := rfl
@[simp] theorem writeFlag_transcript (f : Flag) (b : Bool) (s : State) : (writeFlag f b s).transcript = s.transcript := rfl
@[simp] theorem writeFlag_responses (f : Flag) (b : Bool) (s : State) : (writeFlag f b s).responses = s.responses := rfl
@[simp] theorem writeFlag_reqChan (f : Flag) (b : Bool) (s : State) : (writeFlag f b s).reqChan = s.reqChan := rfl
@[simp] theorem writeFlag_port (f : Flag) (b : Bool) (s : State) : (writeFlag f b s).port = s.port := rfl
@[simp] theorem writeFlag_host (f : Flag) (b : Bool) (s : State) : (writeFlag f b s).host = s.host := rfl
@[simp] theorem writeFlag_budget (f : Flag) (b : Bool) (s : State) : (writeFlag f b s).budget = s.budget := rfl
@[simp] theorem writeFlag_statusReads (f : Flag) (b : Bool) (s : State) : (writeFlag f b s).statusReads = s.statusReads := rfl
@[simp] theorem writeFlag_peer (f : Flag) (b : Bool) (s : State) : (writeFlag f b s).peer = s.peer := rfl
@[simp] theorem writeFlag_peerDraws (f : Flag) (b : Bool) (s : State) : (writeFlag f b s).peerDraws = s.peerDraws := rfl
@[simp] theorem writeFlag_openings (f : Flag) (b : Bool) (s : State) : (writeFlag f b s).openings = s.openings := rfl
@[simp] theorem writeFlag_openDraws (f : Flag) (b : Bool) (s : State) : (writeFlag f b s).openDraws = s.openDraws := rfl

/-! ### `loadRecord` -/

@[simp] theorem loadRecord_mode (d : List Byte) (s : State) : (loadRecord d s).mode = s.mode := rfl
@[simp] theorem loadRecord_flags (d : List Byte) (s : State) : (loadRecord d s).flags = s.flags := rfl
@[simp] theorem loadRecord_errCode (d : List Byte) (s : State) : (loadRecord d s).errCode = s.errCode := rfl
@[simp] theorem loadRecord_errSub (d : List Byte) (s : State) : (loadRecord d s).errSub = s.errSub := rfl
@[simp] theorem loadRecord_errExpected (d : List Byte) (s : State) : (loadRecord d s).errExpected = s.errExpected := rfl
@[simp] theorem loadRecord_errReceived (d : List Byte) (s : State) : (loadRecord d s).errReceived = s.errReceived := rfl
@[simp] theorem loadRecord_errChan (d : List Byte) (s : State) : (loadRecord d s).errChan = s.errChan := rfl
@[simp] theorem loadRecord_errCmd (d : List Byte) (s : State) : (loadRecord d s).errCmd = s.errCmd := rfl
@[simp] theorem loadRecord_chanCtr (d : List Byte) (s : State) : (loadRecord d s).chanCtr = s.chanCtr := rfl
@[simp] theorem loadRecord_txCount (d : List Byte) (s : State) : (loadRecord d s).txCount = s.txCount := rfl
@[simp] theorem loadRecord_rxCount (d : List Byte) (s : State) : (loadRecord d s).rxCount = s.rxCount := rfl
@[simp] theorem loadRecord_recBuf (d : List Byte) (s : State) : (loadRecord d s).recBuf = Memory.ofBytes d := rfl
@[simp] theorem loadRecord_ckReg (d : List Byte) (s : State) : (loadRecord d s).ckReg = s.ckReg := rfl
@[simp] theorem loadRecord_addrReg (d : List Byte) (s : State) : (loadRecord d s).addrReg = s.addrReg := rfl
@[simp] theorem loadRecord_ws (d : List Byte) (s : State) : (loadRecord d s).ws = s.ws := rfl
@[simp] theorem loadRecord_stepPtr (d : List Byte) (s : State) : (loadRecord d s).stepPtr = s.stepPtr := rfl
@[simp] theorem loadRecord_transcript (d : List Byte) (s : State) : (loadRecord d s).transcript = s.transcript := rfl
@[simp] theorem loadRecord_responses (d : List Byte) (s : State) : (loadRecord d s).responses = s.responses := rfl
@[simp] theorem loadRecord_reqChan (d : List Byte) (s : State) : (loadRecord d s).reqChan = s.reqChan := rfl
@[simp] theorem loadRecord_port (d : List Byte) (s : State) : (loadRecord d s).port = s.port := rfl
@[simp] theorem loadRecord_host (d : List Byte) (s : State) : (loadRecord d s).host = s.host := rfl
@[simp] theorem loadRecord_budget (d : List Byte) (s : State) : (loadRecord d s).budget = s.budget := rfl
@[simp] theorem loadRecord_statusReads (d : List Byte) (s : State) : (loadRecord d s).statusReads = s.statusReads := rfl
@[simp] theorem loadRecord_peer (d : List Byte) (s : State) : (loadRecord d s).peer = s.peer := rfl
@[simp] theorem loadRecord_peerDraws (d : List Byte) (s : State) : (loadRecord d s).peerDraws = s.peerDraws := rfl
@[simp] theorem loadRecord_openings (d : List Byte) (s : State) : (loadRecord d s).openings = s.openings := rfl
@[simp] theorem loadRecord_openDraws (d : List Byte) (s : State) : (loadRecord d s).openDraws = s.openDraws := rfl

/-! ### `refuse` -/

@[simp] theorem refuse_mode (s : State) : (refuse s).mode = .refused := rfl
@[simp] theorem refuse_flags (s : State) : (refuse s).flags = setBit s.flags 4 true := rfl
@[simp] theorem refuse_errCode (s : State) : (refuse s).errCode = s.errCode := rfl
@[simp] theorem refuse_errSub (s : State) : (refuse s).errSub = s.errSub := rfl
@[simp] theorem refuse_errExpected (s : State) : (refuse s).errExpected = s.errExpected := rfl
@[simp] theorem refuse_errReceived (s : State) : (refuse s).errReceived = s.errReceived := rfl
@[simp] theorem refuse_errChan (s : State) : (refuse s).errChan = s.errChan := rfl
@[simp] theorem refuse_errCmd (s : State) : (refuse s).errCmd = s.errCmd := rfl
@[simp] theorem refuse_chanCtr (s : State) : (refuse s).chanCtr = s.chanCtr := rfl
@[simp] theorem refuse_txCount (s : State) : (refuse s).txCount = s.txCount := rfl
@[simp] theorem refuse_rxCount (s : State) : (refuse s).rxCount = s.rxCount := rfl
@[simp] theorem refuse_recBuf (s : State) : (refuse s).recBuf = s.recBuf := rfl
@[simp] theorem refuse_ckReg (s : State) : (refuse s).ckReg = s.ckReg := rfl
@[simp] theorem refuse_addrReg (s : State) : (refuse s).addrReg = s.addrReg := rfl
@[simp] theorem refuse_ws (s : State) : (refuse s).ws = s.ws := rfl
@[simp] theorem refuse_stepPtr (s : State) : (refuse s).stepPtr = s.stepPtr := rfl
@[simp] theorem refuse_transcript (s : State) : (refuse s).transcript = s.transcript := rfl
@[simp] theorem refuse_responses (s : State) : (refuse s).responses = s.responses ++ [[0xFE#8]] := rfl
@[simp] theorem refuse_reqChan (s : State) : (refuse s).reqChan = s.reqChan := rfl
@[simp] theorem refuse_port (s : State) : (refuse s).port = s.port := rfl
@[simp] theorem refuse_host (s : State) : (refuse s).host = s.host := rfl
@[simp] theorem refuse_budget (s : State) : (refuse s).budget = s.budget := rfl
@[simp] theorem refuse_statusReads (s : State) : (refuse s).statusReads = s.statusReads := rfl
@[simp] theorem refuse_peer (s : State) : (refuse s).peer = s.peer := rfl
@[simp] theorem refuse_peerDraws (s : State) : (refuse s).peerDraws = s.peerDraws := rfl
@[simp] theorem refuse_openings (s : State) : (refuse s).openings = s.openings := rfl
@[simp] theorem refuse_openDraws (s : State) : (refuse s).openDraws = s.openDraws := rfl

/-! ### `peerUsed` -/

@[simp] theorem peerUsed_mode (s : State) : (peerUsed s).mode = s.mode := rfl
@[simp] theorem peerUsed_flags (s : State) : (peerUsed s).flags = s.flags := rfl
@[simp] theorem peerUsed_errCode (s : State) : (peerUsed s).errCode = s.errCode := rfl
@[simp] theorem peerUsed_errSub (s : State) : (peerUsed s).errSub = s.errSub := rfl
@[simp] theorem peerUsed_errExpected (s : State) : (peerUsed s).errExpected = s.errExpected := rfl
@[simp] theorem peerUsed_errReceived (s : State) : (peerUsed s).errReceived = s.errReceived := rfl
@[simp] theorem peerUsed_errChan (s : State) : (peerUsed s).errChan = s.errChan := rfl
@[simp] theorem peerUsed_errCmd (s : State) : (peerUsed s).errCmd = s.errCmd := rfl
@[simp] theorem peerUsed_chanCtr (s : State) : (peerUsed s).chanCtr = s.chanCtr := rfl
@[simp] theorem peerUsed_txCount (s : State) : (peerUsed s).txCount = s.txCount := rfl
@[simp] theorem peerUsed_rxCount (s : State) : (peerUsed s).rxCount = s.rxCount := rfl
@[simp] theorem peerUsed_recBuf (s : State) : (peerUsed s).recBuf = s.recBuf := rfl
@[simp] theorem peerUsed_ckReg (s : State) : (peerUsed s).ckReg = s.ckReg := rfl
@[simp] theorem peerUsed_addrReg (s : State) : (peerUsed s).addrReg = s.addrReg := rfl
@[simp] theorem peerUsed_ws (s : State) : (peerUsed s).ws = s.ws := rfl
@[simp] theorem peerUsed_stepPtr (s : State) : (peerUsed s).stepPtr = s.stepPtr := rfl
@[simp] theorem peerUsed_transcript (s : State) : (peerUsed s).transcript = s.transcript := rfl
@[simp] theorem peerUsed_responses (s : State) : (peerUsed s).responses = s.responses := rfl
@[simp] theorem peerUsed_reqChan (s : State) : (peerUsed s).reqChan = s.reqChan := rfl
@[simp] theorem peerUsed_port (s : State) : (peerUsed s).port = s.port := rfl
@[simp] theorem peerUsed_host (s : State) : (peerUsed s).host = s.host := rfl
@[simp] theorem peerUsed_budget (s : State) : (peerUsed s).budget = s.budget := rfl
@[simp] theorem peerUsed_statusReads (s : State) : (peerUsed s).statusReads = s.statusReads := rfl
@[simp] theorem peerUsed_openings (s : State) : (peerUsed s).openings = s.openings := rfl
@[simp] theorem peerUsed_openDraws (s : State) : (peerUsed s).openDraws = s.openDraws := rfl

/-! ### `openingUsed` -/

@[simp] theorem openingUsed_mode (s : State) : (openingUsed s).mode = s.mode := rfl
@[simp] theorem openingUsed_flags (s : State) : (openingUsed s).flags = s.flags := rfl
@[simp] theorem openingUsed_errCode (s : State) : (openingUsed s).errCode = s.errCode := rfl
@[simp] theorem openingUsed_errSub (s : State) : (openingUsed s).errSub = s.errSub := rfl
@[simp] theorem openingUsed_errExpected (s : State) : (openingUsed s).errExpected = s.errExpected := rfl
@[simp] theorem openingUsed_errReceived (s : State) : (openingUsed s).errReceived = s.errReceived := rfl
@[simp] theorem openingUsed_errChan (s : State) : (openingUsed s).errChan = s.errChan := rfl
@[simp] theorem openingUsed_errCmd (s : State) : (openingUsed s).errCmd = s.errCmd := rfl
@[simp] theorem openingUsed_chanCtr (s : State) : (openingUsed s).chanCtr = s.chanCtr := rfl
@[simp] theorem openingUsed_txCount (s : State) : (openingUsed s).txCount = s.txCount := rfl
@[simp] theorem openingUsed_rxCount (s : State) : (openingUsed s).rxCount = s.rxCount := rfl
@[simp] theorem openingUsed_recBuf (s : State) : (openingUsed s).recBuf = s.recBuf := rfl
@[simp] theorem openingUsed_ckReg (s : State) : (openingUsed s).ckReg = s.ckReg := rfl
@[simp] theorem openingUsed_addrReg (s : State) : (openingUsed s).addrReg = s.addrReg := rfl
@[simp] theorem openingUsed_ws (s : State) : (openingUsed s).ws = s.ws := rfl
@[simp] theorem openingUsed_stepPtr (s : State) : (openingUsed s).stepPtr = s.stepPtr := rfl
@[simp] theorem openingUsed_transcript (s : State) : (openingUsed s).transcript = s.transcript := rfl
@[simp] theorem openingUsed_responses (s : State) : (openingUsed s).responses = s.responses := rfl
@[simp] theorem openingUsed_reqChan (s : State) : (openingUsed s).reqChan = s.reqChan := rfl
@[simp] theorem openingUsed_port (s : State) : (openingUsed s).port = s.port := rfl
@[simp] theorem openingUsed_host (s : State) : (openingUsed s).host = s.host := rfl
@[simp] theorem openingUsed_budget (s : State) : (openingUsed s).budget = s.budget := rfl
@[simp] theorem openingUsed_statusReads (s : State) : (openingUsed s).statusReads = s.statusReads := rfl
@[simp] theorem openingUsed_peer (s : State) : (openingUsed s).peer = s.peer := rfl
@[simp] theorem openingUsed_peerDraws (s : State) : (openingUsed s).peerDraws = s.peerDraws := rfl

/-! ### `noteTruncation` -/

@[simp] theorem noteTruncation_mode (b : Bool) (s : State) : (noteTruncation b s).mode = s.mode := by cases b <;> rfl
@[simp] theorem noteTruncation_flags (b : Bool) (s : State) : (noteTruncation b s).flags = if b then setBit s.flags 2 true else s.flags := by cases b <;> rfl
@[simp] theorem noteTruncation_errCode (b : Bool) (s : State) : (noteTruncation b s).errCode = s.errCode := by cases b <;> rfl
@[simp] theorem noteTruncation_errSub (b : Bool) (s : State) : (noteTruncation b s).errSub = s.errSub := by cases b <;> rfl
@[simp] theorem noteTruncation_errExpected (b : Bool) (s : State) : (noteTruncation b s).errExpected = s.errExpected := by cases b <;> rfl
@[simp] theorem noteTruncation_errReceived (b : Bool) (s : State) : (noteTruncation b s).errReceived = s.errReceived := by cases b <;> rfl
@[simp] theorem noteTruncation_errChan (b : Bool) (s : State) : (noteTruncation b s).errChan = s.errChan := by cases b <;> rfl
@[simp] theorem noteTruncation_errCmd (b : Bool) (s : State) : (noteTruncation b s).errCmd = s.errCmd := by cases b <;> rfl
@[simp] theorem noteTruncation_chanCtr (b : Bool) (s : State) : (noteTruncation b s).chanCtr = s.chanCtr := by cases b <;> rfl
@[simp] theorem noteTruncation_txCount (b : Bool) (s : State) : (noteTruncation b s).txCount = s.txCount := by cases b <;> rfl
@[simp] theorem noteTruncation_rxCount (b : Bool) (s : State) : (noteTruncation b s).rxCount = s.rxCount := by cases b <;> rfl
@[simp] theorem noteTruncation_recBuf (b : Bool) (s : State) : (noteTruncation b s).recBuf = s.recBuf := by cases b <;> rfl
@[simp] theorem noteTruncation_ckReg (b : Bool) (s : State) : (noteTruncation b s).ckReg = s.ckReg := by cases b <;> rfl
@[simp] theorem noteTruncation_addrReg (b : Bool) (s : State) : (noteTruncation b s).addrReg = s.addrReg := by cases b <;> rfl
@[simp] theorem noteTruncation_ws (b : Bool) (s : State) : (noteTruncation b s).ws = s.ws := by cases b <;> rfl
@[simp] theorem noteTruncation_stepPtr (b : Bool) (s : State) : (noteTruncation b s).stepPtr = s.stepPtr := by cases b <;> rfl
@[simp] theorem noteTruncation_transcript (b : Bool) (s : State) : (noteTruncation b s).transcript = s.transcript := by cases b <;> rfl
@[simp] theorem noteTruncation_responses (b : Bool) (s : State) : (noteTruncation b s).responses = s.responses := by cases b <;> rfl
@[simp] theorem noteTruncation_reqChan (b : Bool) (s : State) : (noteTruncation b s).reqChan = s.reqChan := by cases b <;> rfl
@[simp] theorem noteTruncation_port (b : Bool) (s : State) : (noteTruncation b s).port = s.port := by cases b <;> rfl
@[simp] theorem noteTruncation_host (b : Bool) (s : State) : (noteTruncation b s).host = s.host := by cases b <;> rfl
@[simp] theorem noteTruncation_budget (b : Bool) (s : State) : (noteTruncation b s).budget = s.budget := by cases b <;> rfl
@[simp] theorem noteTruncation_statusReads (b : Bool) (s : State) : (noteTruncation b s).statusReads = s.statusReads := by cases b <;> rfl
@[simp] theorem noteTruncation_peer (b : Bool) (s : State) : (noteTruncation b s).peer = s.peer := by cases b <;> rfl
@[simp] theorem noteTruncation_peerDraws (b : Bool) (s : State) : (noteTruncation b s).peerDraws = s.peerDraws := by cases b <;> rfl
@[simp] theorem noteTruncation_openings (b : Bool) (s : State) : (noteTruncation b s).openings = s.openings := by cases b <;> rfl
@[simp] theorem noteTruncation_openDraws (b : Bool) (s : State) : (noteTruncation b s).openDraws = s.openDraws := by cases b <;> rfl

/-! ### `rxState` -/

@[simp] theorem rxState_mode (n : Nat) (s : State) : (rxState n s).mode = s.mode := rfl
@[simp] theorem rxState_flags (n : Nat) (s : State) : (rxState n s).flags = s.flags := rfl
@[simp] theorem rxState_errCode (n : Nat) (s : State) : (rxState n s).errCode = s.errCode := rfl
@[simp] theorem rxState_errSub (n : Nat) (s : State) : (rxState n s).errSub = s.errSub := rfl
@[simp] theorem rxState_errExpected (n : Nat) (s : State) : (rxState n s).errExpected = s.errExpected := rfl
@[simp] theorem rxState_errReceived (n : Nat) (s : State) : (rxState n s).errReceived = s.errReceived := rfl
@[simp] theorem rxState_errChan (n : Nat) (s : State) : (rxState n s).errChan = s.errChan := rfl
@[simp] theorem rxState_errCmd (n : Nat) (s : State) : (rxState n s).errCmd = s.errCmd := rfl
@[simp] theorem rxState_chanCtr (n : Nat) (s : State) : (rxState n s).chanCtr = s.chanCtr := rfl
@[simp] theorem rxState_txCount (n : Nat) (s : State) : (rxState n s).txCount = s.txCount := rfl
@[simp] theorem rxState_rxCount (n : Nat) (s : State) : (rxState n s).rxCount = s.rxCount + BitVec.ofNat 32 (peerBytes n s).length := rfl
@[simp] theorem rxState_recBuf (n : Nat) (s : State) : (rxState n s).recBuf = s.recBuf := rfl
@[simp] theorem rxState_ckReg (n : Nat) (s : State) : (rxState n s).ckReg = s.ckReg := rfl
@[simp] theorem rxState_addrReg (n : Nat) (s : State) : (rxState n s).addrReg = s.addrReg := rfl
@[simp] theorem rxState_ws (n : Nat) (s : State) : (rxState n s).ws = s.ws := rfl
@[simp] theorem rxState_stepPtr (n : Nat) (s : State) : (rxState n s).stepPtr = s.stepPtr := rfl
@[simp] theorem rxState_transcript (n : Nat) (s : State) : (rxState n s).transcript = s.transcript ++ [.rx n (peerBytes n s)] := rfl
@[simp] theorem rxState_responses (n : Nat) (s : State) : (rxState n s).responses = s.responses := rfl
@[simp] theorem rxState_reqChan (n : Nat) (s : State) : (rxState n s).reqChan = s.reqChan := rfl
@[simp] theorem rxState_port (n : Nat) (s : State) : (rxState n s).port = s.port := rfl
@[simp] theorem rxState_host (n : Nat) (s : State) : (rxState n s).host = s.host := rfl
@[simp] theorem rxState_budget (n : Nat) (s : State) : (rxState n s).budget = s.budget := rfl
@[simp] theorem rxState_statusReads (n : Nat) (s : State) : (rxState n s).statusReads = s.statusReads := rfl
@[simp] theorem rxState_peer (n : Nat) (s : State) : (rxState n s).peer = (peerUsed s).peer := rfl
@[simp] theorem rxState_peerDraws (n : Nat) (s : State) : (rxState n s).peerDraws = (peerUsed s).peerDraws := rfl
@[simp] theorem rxState_openings (n : Nat) (s : State) : (rxState n s).openings = s.openings := rfl
@[simp] theorem rxState_openDraws (n : Nat) (s : State) : (rxState n s).openDraws = s.openDraws := rfl

/-! ### The environment's answers, listed ones first -/

theorem peerBytes_cons (n : Nat) (s : State) (a : List Byte) (rest : List (List Byte)) (h : s.peer = a :: rest) :
    peerBytes n s = a.take n := by
  simp [peerBytes, h]

theorem peerUsed_cons (s : State) (a : List Byte) (rest : List (List Byte)) (h : s.peer = a :: rest) :
    peerUsed s = { s with peer := rest } := by
  simp [peerUsed, h]

theorem peerBytes_length_le (n : Nat) (s : State) : (peerBytes n s).length ≤ n := by
  unfold peerBytes
  split <;> simp

theorem openingUsed_cons (s : State) (o : Bool) (rest : List Bool) (h : s.openings = o :: rest) :
    openingUsed s = { s with openings := rest } := by
  simp [openingUsed, h]

theorem openingOk_cons (s : State) (o : Bool) (rest : List Bool) (h : s.openings = o :: rest) :
    openingOk s = o := by
  simp [openingOk, h]

/-- What `rxState` is when PEER's next answer is listed. -/
theorem rxState_cons (n : Nat) (s : State) (a : List Byte) (rest : List (List Byte)) (h : s.peer = a :: rest) :
    rxState n s = { s with
      peer := rest
      transcript := s.transcript ++ [.rx n (a.take n)]
      rxCount := s.rxCount + BitVec.ofNat 32 (a.take n).length } := by
  simp [rxState, peerUsed, peerBytes, h]

end Sys2Proof.Machine
end

