-- ==== Sys2Proof/Laws/Peer.lean ====
section
/-! SUPPORT. PEER's answers to a run of reads (00_scope.md R9): what they depend on, and what using them
up leaves. -/

namespace Sys2Proof.Machine

/-- What PEER returns depends on its listed answers and on the count of open ones alone. -/
theorem peerBytes_congr (n : Nat) (s t : State) (hp : t.peer = s.peer) (hd : t.peerDraws = s.peerDraws) :
    peerBytes n t = peerBytes n s := by
  simp [peerBytes, hp, hd]

/-- A read whose answer is known. -/
theorem rxState_of (n : Nat) (r : List Byte) (s : State) (h : peerBytes n s = r) :
    rxState n s = { peerUsed s with
      transcript := s.transcript ++ [.rx n r]
      rxCount := s.rxCount + BitVec.ofNat 32 r.length } := by
  rw [rxState, h]

/-- What a run of reads is answered depends on the same two. -/
theorem answered_congr (reads : List (Nat × List Byte)) (s t : State) (hp : t.peer = s.peer)
    (hd : t.peerDraws = s.peerDraws) : Answered reads t ↔ Answered reads s := by
  induction reads generalizing s t with
  | nil => rfl
  | cons r reads ih =>
    simp only [Answered, peerBytes_congr _ s t hp hd,
      ih (peerUsed s) (peerUsed t) (by simp [peerUsed, hp]) (by simp [peerUsed, hp, hd])]

@[simp] theorem peerAfter_zero (s : State) : peerAfter 0 s = s := by simp [peerAfter]

/-- One more read uses up one more answer. -/
theorem peerAfter_succ (k : Nat) (s : State) : peerAfter (k + 1) s = peerAfter k (peerUsed s) := by
  rcases hp : s.peer with _ | ⟨a, p⟩
  · simp [peerAfter, peerUsed, hp]
    omega
  · simp [peerAfter, peerUsed, hp]

/-- A run of reads, then another. -/
theorem answered_append (as bs : List (Nat × List Byte)) (s : State) :
    Answered (as ++ bs) s ↔ Answered as s ∧ Answered bs (peerAfter as.length s) := by
  induction as generalizing s with
  | nil => simp [Answered]
  | cons a as ih => simp only [List.cons_append, Answered, List.length_cons, peerAfter_succ, ih, and_assoc]

/-- Answers that are listed and no longer than the reads they answer. -/
theorem answered_of_listed (reads : List (Nat × List Byte)) (rest : List (List Byte)) (s : State)
    (hp : s.peer = reads.map Prod.snd ++ rest) (hl : ∀ r ∈ reads, r.2.length ≤ r.1) : Answered reads s := by
  induction reads generalizing s with
  | nil => trivial
  | cons r reads ih =>
    refine ⟨?_, ih (peerUsed s) (by simp [peerUsed, hp]) fun q hq => hl q (List.mem_cons_of_mem _ hq)⟩
    rw [peerBytes_cons _ s r.2 _ (by simpa using hp)]
    exact List.take_of_length_le (hl r (by simp))

end Sys2Proof.Machine
end

