-- ==== Sys2Proof/Laws/Memory.lean ====
section
/-! SUPPORT. The laws of REC_BUF's storage and of single bits: what is written is read back, the
canonical form is kept, and equal contents are equal data. -/

namespace Sys2Proof.Machine

theorem Memory.read_cellsFrom_below (bs : List Byte) (a x : Nat) (h : x < a) :
    Memory.read (Memory.cellsFrom a bs) x = unlistedByte := by
  induction bs generalizing a with
  | nil => rfl
  | cons b bs ih =>
    unfold Memory.cellsFrom
    split
    · exact ih _ (by omega)
    · rw [Memory.read, if_neg (by omega)]
      exact ih _ (by omega)

theorem Memory.read_cellsFrom (bs : List Byte) (a i : Nat) :
    Memory.read (Memory.cellsFrom a bs) (a + i) = bs.getD i 0#8 := by
  induction bs generalizing a i with
  | nil => simp [Memory.cellsFrom, Memory.read, unlistedByte]
  | cons b bs ih =>
    unfold Memory.cellsFrom
    cases i with
    | zero =>
      split
      · next h => rw [Memory.read_cellsFrom_below _ _ _ (by omega)]; simp [h]
      · simp [Memory.read]
    | succ i =>
      have hi := ih (a + 1) i
      rw [show a + 1 + i = a + (i + 1) by omega] at hi
      split
      · simpa using hi
      · rw [Memory.read, if_neg (by omega)]; simpa using hi

/-- Read after write: a byte of `ofBytes bs` is that byte of `bs`. -/
@[simp] theorem Memory.read_ofBytes (bs : List Byte) (i : Nat) : (Memory.ofBytes bs).read i = bs.getD i 0#8 := by
  simpa [Memory.ofBytes] using Memory.read_cellsFrom bs 0 i

/-- The 32 bytes written are the 32 bytes read. -/
theorem Memory.bytes_ofBytes (bs : List Byte) (h : bs.length = 32) : (Memory.ofBytes bs).bytes = bs := by
  apply List.ext_getElem
  · simp [Memory.bytes, Config.recordBytes, h]
  · intro i h1 h2
    simp [Memory.bytes, List.getD_eq_getElem?_getD, h2]

theorem Memory.wfFrom_mono (m : Memory) (a b : Nat) (h : a ≤ b) (hb : Memory.wfFrom b m = true) :
    Memory.wfFrom a m = true := by
  cases m with
  | nil => rfl
  | cons c m =>
    obtain ⟨k, v⟩ := c
    simp only [Memory.wfFrom, Bool.and_eq_true, decide_eq_true_eq] at hb ⊢
    exact ⟨⟨⟨by omega, hb.1.1.2⟩, hb.1.2⟩, hb.2⟩

theorem Memory.wfFrom_cellsFrom (bs : List Byte) (a : Nat) (h : a + bs.length ≤ 32) :
    Memory.wfFrom a (Memory.cellsFrom a bs) = true := by
  induction bs generalizing a with
  | nil => rfl
  | cons b bs ih =>
    have hl : a + 1 + bs.length ≤ 32 := by simp at h; omega
    unfold Memory.cellsFrom
    split
    · exact Memory.wfFrom_mono _ _ _ (by omega) (ih _ hl)
    · next hb =>
      have ha : a < 32 := by simp at h; omega
      simp [Memory.wfFrom, Config.recordBytes, ih _ hl, hb, ha]

/-- The one write of REC_BUF leaves it in its canonical form, whatever it held. -/
theorem Memory.wf_ofBytes (bs : List Byte) (h : bs.length ≤ 32) : (Memory.ofBytes bs).wf = true :=
  Memory.wfFrom_cellsFrom bs 0 (by omega)

/-- REC_BUF at reset has the form. -/
theorem reset_recBuf_wf : State.reset.recBuf.wf = true := rfl

theorem recordBytes_length (s : State) : (recordBytes s).length = 32 := by
  simp [recordBytes, Memory.bytes, Config.recordBytes]

/-- What the sequencer reads after REC_BUF was given 32 bytes. -/
theorem recordBytes_loadRecord (d : List Byte) (s : State) (h : d.length = 32) :
    recordBytes (loadRecord d s) = d := Memory.bytes_ofBytes d h

/-! ### Single bits -/

theorem getLsbD_oneHot (i j : Nat) (h : j < 8) : (1#8 <<< i).getLsbD j = decide (i = j) := by
  simp only [BitVec.getLsbD_shiftLeft, BitVec.getLsbD_one, h, decide_true, Bool.true_and]
  by_cases hlt : j < i
  · simp [hlt]; omega
  · simp [hlt]; omega

theorem getLsbD_setBit (v : Byte) (i j : Nat) (b : Bool) (h : j < 8) :
    (setBit v i b).getLsbD j = if i = j then b else v.getLsbD j := by
  cases b <;> by_cases hij : i = j <;>
    simp only [setBit, Bool.false_eq_true, if_false, if_true, BitVec.getLsbD_or, BitVec.getLsbD_and,
      BitVec.getLsbD_not, getLsbD_oneHot _ _ h, hij, h, decide_true, decide_false] <;> simp

theorem getElem_setBit (v : Byte) (i j : Nat) (b : Bool) (h : j < 8) :
    (setBit v i b)[j] = if i = j then b else v[j] := by
  simpa [BitVec.getLsbD_eq_getElem h] using getLsbD_setBit v i j b h

/-- The later of two writes of one bit stands. -/
theorem setBit_setBit (v : Byte) (i : Nat) (a b : Bool) : setBit (setBit v i a) i b = setBit v i b := by
  apply BitVec.eq_of_getLsbD_eq
  intro j hj
  rw [getLsbD_setBit _ _ _ _ hj, getLsbD_setBit _ _ _ _ hj, getLsbD_setBit _ _ _ _ hj]
  split <;> rfl

theorem flagBit_lt (f : Flag) : flagBit f < 8 := by cases f <;> decide

theorem flagBit_injective (f g : Flag) (h : flagBit f = flagBit g) : f = g := by
  cases f <;> cases g <;> first | rfl | (exact absurd h (by decide))

/-- A flag reads back as written. -/
@[simp] theorem readFlag_writeFlag_same (f : Flag) (b : Bool) (s : State) : readFlag f (writeFlag f b s) = b := by
  simp [readFlag, writeFlag, getLsbD_setBit _ _ _ _ (flagBit_lt f)]

/-- Every other flag reads as before. -/
theorem readFlag_writeFlag_other (f g : Flag) (b : Bool) (s : State) (h : f ≠ g) :
    readFlag g (writeFlag f b s) = readFlag g s := by
  have hb : flagBit f ≠ flagBit g := fun e => h (flagBit_injective f g e)
  simp [readFlag, writeFlag, getLsbD_setBit _ _ _ _ (flagBit_lt g), hb]

end Sys2Proof.Machine
end

