-- ==== Sys2Proof/Laws/WorkingSet.lean ====
section
/-! SUPPORT. The laws of the working set: an entry written is read back, every other entry stands, and
the canonical form is kept. -/

namespace Sys2Proof.Machine

@[simp] theorem wsLookup_wsInsert_same (n : Byte) (r : Record) (w : WorkingSet) :
    wsLookup n (wsInsert n r w) = some r := by
  induction w with
  | nil => simp [wsInsert, wsLookup]
  | cons c w ih =>
    obtain ⟨k, q⟩ := c
    unfold wsInsert
    split
    · simp [wsLookup]
    · split
      · simp [wsLookup]
      · next h => rw [wsLookup, if_neg (fun e => h e.symm)]; exact ih

theorem wsLookup_wsInsert_other (n j : Byte) (r : Record) (w : WorkingSet) (h : j ≠ n) :
    wsLookup j (wsInsert n r w) = wsLookup j w := by
  induction w with
  | nil => simp [wsInsert, wsLookup, h.symm]
  | cons c w ih =>
    obtain ⟨k, q⟩ := c
    unfold wsInsert
    split
    · rw [wsLookup, if_neg h.symm]
    · split
      · next hk => subst hk; rw [wsLookup, wsLookup, if_neg h.symm, if_neg h.symm]
      · rw [wsLookup, wsLookup, ih]

theorem wsWfAbove_mono (w : WorkingSet) (a b : Nat) (h : a ≤ b) (hb : wsWfAbove b w = true) :
    wsWfAbove a w = true := by
  cases w with
  | nil => rfl
  | cons c w =>
    obtain ⟨k, r⟩ := c
    simp only [wsWfAbove, Bool.and_eq_true, decide_eq_true_eq] at hb ⊢
    exact ⟨⟨⟨by omega, hb.1.1.2⟩, hb.1.2⟩, hb.2⟩

theorem wsWfAbove_wsInsert (n : Byte) (r : Record) (w : WorkingSet) (a : Nat) (ha : a < n.toNat)
    (hn : channelOk n = true) (hr : recordOk r = true) (hw : wsWfAbove a w = true) :
    wsWfAbove a (wsInsert n r w) = true := by
  induction w generalizing a with
  | nil => simp [wsInsert, wsWfAbove, ha, hn, hr]
  | cons c w ih =>
    obtain ⟨k, q⟩ := c
    simp only [wsWfAbove, Bool.and_eq_true, decide_eq_true_eq] at hw
    obtain ⟨⟨⟨h1, h2⟩, h3⟩, h4⟩ := hw
    unfold wsInsert
    split
    · next h => simp [wsWfAbove, ha, hn, hr, h, h2, h3, h4]
    · split
      · next h => subst h; simp [wsWfAbove, ha, hn, hr, h4]
      · next hlt hne =>
        have hk : k.toNat < n.toNat := by
          have : n.toNat ≠ k.toNat := fun e => hne (BitVec.eq_of_toNat_eq e)
          omega
        simp [wsWfAbove, h1, h2, h3, ih _ hk h4]

/-- Writing a validated record at an existing channel keeps the canonical form. -/
theorem workingSetWf_wsInsert (n : Byte) (r : Record) (w : WorkingSet) (hn : channelOk n = true)
    (hr : recordOk r = true) (hw : workingSetWf w = true) : workingSetWf (wsInsert n r w) = true := by
  have h1 : 1 ≤ n.toNat := by
    simp only [channelOk, channelExists, Bool.and_eq_true, decide_eq_true_eq] at hn
    exact hn.1
  exact wsWfAbove_wsInsert n r w 0 (by omega) hn hr hw

@[simp] theorem wsLookup_wsErase_same (n : Byte) (w : WorkingSet) : wsLookup n (wsErase n w) = none := by
  induction w with
  | nil => rfl
  | cons c w ih =>
    obtain ⟨k, r⟩ := c
    unfold wsErase
    split
    · exact ih
    · next h => rw [wsLookup, if_neg h]; exact ih

theorem wsLookup_wsErase_other (n j : Byte) (w : WorkingSet) (h : j ≠ n) :
    wsLookup j (wsErase n w) = wsLookup j w := by
  induction w with
  | nil => rfl
  | cons c w ih =>
    obtain ⟨k, r⟩ := c
    unfold wsErase
    split
    · next hk => subst hk; rw [wsLookup, if_neg h.symm]; exact ih
    · rw [wsLookup, wsLookup, ih]

theorem wsWfAbove_wsErase (n : Byte) (w : WorkingSet) (a : Nat) (hw : wsWfAbove a w = true) :
    wsWfAbove a (wsErase n w) = true := by
  induction w generalizing a with
  | nil => rfl
  | cons c w ih =>
    obtain ⟨k, r⟩ := c
    simp only [wsWfAbove, Bool.and_eq_true, decide_eq_true_eq] at hw
    obtain ⟨⟨⟨h1, h2⟩, h3⟩, h4⟩ := hw
    unfold wsErase
    split
    · exact wsWfAbove_mono _ _ _ (by omega) (ih _ h4)
    · simp [wsWfAbove, h1, h2, h3, ih _ h4]

/-- Making an entry absent keeps the canonical form. -/
theorem workingSetWf_wsErase (n : Byte) (w : WorkingSet) (hw : workingSetWf w = true) :
    workingSetWf (wsErase n w) = true := wsWfAbove_wsErase n w 0 hw

/-- An entry that is still there after erasures was there before, and is none of those erased. -/
theorem mem_wsErase (n : Byte) (w : WorkingSet) (e : Byte × Record) (h : e ∈ wsErase n w) : e ∈ w ∧ e.1 ≠ n := by
  induction w with
  | nil => cases h
  | cons c w ih =>
    obtain ⟨k, r⟩ := c
    unfold wsErase at h
    split at h
    · exact ⟨.tail _ (ih h).1, (ih h).2⟩
    · next hk =>
      rcases List.mem_cons.1 h with rfl | h
      · exact ⟨.head _, hk⟩
      · exact ⟨.tail _ (ih h).1, (ih h).2⟩

theorem wsWfAbove_channelOk (w : WorkingSet) (a : Nat) (hw : wsWfAbove a w = true) :
    ∀ e ∈ w, channelOk e.1 = true := by
  induction w generalizing a with
  | nil => simp
  | cons c w ih =>
    obtain ⟨k, r⟩ := c
    simp only [wsWfAbove, Bool.and_eq_true, decide_eq_true_eq] at hw
    intro e he
    rcases List.mem_cons.1 he with rfl | he
    · exact hw.1.1.2
    · exact ih _ hw.2 e he

theorem mem_foldl_wsErase (ns : List Byte) (w : WorkingSet) (e : Byte × Record)
    (h : e ∈ ns.foldl (fun v n => wsErase n v) w) : e ∈ w ∧ e.1 ∉ ns := by
  induction ns generalizing w with
  | nil => exact ⟨h, by simp⟩
  | cons n ns ih =>
    obtain ⟨h1, h2⟩ := ih _ h
    obtain ⟨h3, h4⟩ := mem_wsErase n w e h1
    exact ⟨h3, by simp [h4, h2]⟩

/-- Every entry of a canonical WS made absent, channel by channel, leaves it empty (R248). -/
theorem foldl_wsErase_all (ns : List Byte) (w : WorkingSet) (hns : ∀ n, channelOk n = true → n ∈ ns)
    (hw : workingSetWf w = true) : ns.foldl (fun v n => wsErase n v) w = [] := by
  rcases hl : ns.foldl (fun v n => wsErase n v) w with _ | ⟨e, t⟩
  · rfl
  · obtain ⟨h1, h2⟩ := mem_foldl_wsErase ns w e (by rw [hl]; exact .head _)
    exact absurd (hns _ (wsWfAbove_channelOk w 0 hw e h1)) h2

/-- WS at reset, every entry absent, has the form. -/
theorem workingSetWf_nil : workingSetWf [] = true := rfl

end Sys2Proof.Machine
end

