-- ==== Sys2Proof/Laws/Ops.lean ====
section
/-! SUPPORT. What each shared operation can do, said once: the acknowledgement, the read response, the
encoder with its length check, the validators, and one micro-step. -/

namespace Sys2Proof.Machine

@[simp] theorem checksum_nil : checksum [] = 0#8 := rfl
@[simp] theorem checksum_cons (b : Byte) (s : List Byte) : checksum (b :: s) = b + checksum s := rfl

/-- What a read returned is what the next micro-steps see. -/
@[simp] theorem lastRead_rxState (n : Nat) (s : State) : lastRead (rxState n s) = peerBytes n s := by
  simp [lastRead]

/-- The tests of `ACK(e)`: either the byte read is `e` and nothing happens, or ACK_MISMATCH is raised
with the byte read, if any. -/
theorem checkAck_cases (e : Byte) (s : State) :
    ((lastRead s).head? = some e ∧ checkAck e s = s) ∨
    ((lastRead s).head? ≠ some e ∧ checkAck e s =
      raise .ackMismatch { expected := some e, received := (lastRead s).head?, chan := s.reqChan, cmd := e } s) := by
  unfold checkAck
  rcases lastRead s with _ | ⟨b, t⟩
  · exact .inr ⟨by simp, rfl⟩
  · by_cases hb : b = e
    · exact .inl ⟨by simp [hb], by simp [hb]⟩
    · exact .inr ⟨by simp [hb], by simp [hb]⟩

/-- The length tests of `check_read(r)`, in the order of R205. -/
theorem checkLength_cases (s : State) :
    ((lastRead s).length = 0 ∧ checkLength s = raise .emptyResponse { chan := s.reqChan, cmd := 0x30#8 } s) ∨
    (0 < (lastRead s).length ∧ (lastRead s).length < 33 ∧ checkLength s =
      raise .shortResponse { sub := BitVec.ofNat 8 (lastRead s).length, chan := s.reqChan, cmd := 0x30#8 } s) ∨
    (33 ≤ (lastRead s).length ∧ checkLength s = s) := by
  unfold checkLength
  by_cases h0 : (lastRead s).length = 0
  · exact .inl ⟨h0, by rw [if_pos h0]⟩
  · by_cases h1 : (lastRead s).length < 33
    · exact .inr (.inl ⟨by omega, h1, by rw [if_neg h0, if_pos h1]⟩)
    · exact .inr (.inr ⟨by omega, by rw [if_neg h0, if_neg h1]⟩)

/-- The checksum test of `check_read(r)`. -/
theorem checkSum_cases (s : State) :
    (s.ckReg = byteAt (lastRead s) 32 ∧ checkSum s = s) ∨
    (s.ckReg ≠ byteAt (lastRead s) 32 ∧ checkSum s = raise .checksumMismatch
      { expected := some s.ckReg, received := some (byteAt (lastRead s) 32), chan := s.reqChan, cmd := 0x30#8 } s) := by
  unfold checkSum
  split
  · next h => exact .inl ⟨h, rfl⟩
  · next h => exact .inr ⟨h, rfl⟩

/-- An encoded record is 32 bytes when its name is at most 12 (R169). -/
theorem rencode_length (r : Record) (h : r.name.length ≤ 12) : (rencode r).length = 32 := by
  simp [rencode, bytesLE32, bytesLE16, Config.nameBytes]
  omega

/-- The encoding of a record whose name fits is stored as it is (R165). -/
theorem storeEncoded_ok (r : Record) (s : State) (h : r.name.length ≤ 12) :
    storeEncoded r s = loadRecord (rencode r) s := by
  rw [storeEncoded, List.take_of_length_le (by simp [rencode_length r h, Config.recordBytes])]

/-- The length check of a record whose name fits never raises INTERNAL_ENCODING (R169). -/
theorem checkEncoded_ok (r : Record) (s : State) (h : r.name.length ≤ 12) : checkEncoded r s = s := by
  simp [checkEncoded, Config.recordBytes, rencode_length r h]

/-- The length check: nothing, or INTERNAL_ENCODING is raised. -/
theorem checkEncoded_cases (r : Record) (s : State) :
    ((rencode r).length = 32 ∧ checkEncoded r s = s) ∨
    ((rencode r).length ≠ 32 ∧ checkEncoded r s = raise .internalEncoding { chan := s.reqChan } s) := by
  unfold checkEncoded Config.recordBytes
  split
  · next h => exact .inl ⟨h, rfl⟩
  · next h => exact .inr ⟨h, rfl⟩

/-- A validator's test: it passes and nothing happens, or VALIDATION is raised. -/
theorem require_cases (ok : Bool) (field chan : Byte) (s : State) :
    (ok = true ∧ require ok field chan s = s) ∨ (ok = false ∧ require ok field chan s = invalid field chan s) := by
  cases ok
  · exact .inr ⟨rfl, rfl⟩
  · exact .inl ⟨rfl, rfl⟩

/-- WS gets the validated record of an existing channel, or nothing happens. -/
theorem setEntry_cases (n : Byte) (rd : RD) (s : State) :
    (channelOk n = true ∧ fieldFailure allFields rd = none ∧
      setEntry n rd s = { s with ws := wsInsert n (recordOf rd) s.ws }) ∨
    ((channelOk n = false ∨ fieldFailure allFields rd ≠ none) ∧ setEntry n rd s = s) := by
  unfold setEntry
  cases hc : channelOk n
  · exact .inr ⟨.inl rfl, by simp⟩
  · cases hf : fieldFailure allFields rd
    · exact .inl ⟨rfl, rfl, by simp⟩
    · exact .inr ⟨.inr (by simp), by simp⟩

theorem emptySlot_length : emptySlot.length = 32 := rfl

theorem strip0_length_le (t : List Byte) : (strip0 t).length ≤ t.length := by
  induction t with
  | nil => simp [strip0]
  | cons b t ih =>
    unfold strip0
    split
    · split <;> simp
    · next c u h => rw [h] at ih; simpa using ih

/-- A decoded name has at most 12 bytes (R98, R164). -/
theorem rdecode_name_length (s : List Byte) : (rdecode s).name.length ≤ 12 := by
  refine (strip0_length_le _).trans ?_
  simp [Config.nameBytes]

/-- A truncated name has at most 12 bytes (R285). -/
theorem recordOf_name_length (rd : RD) : (recordOf rd).name.length ≤ 12 := by
  simp [recordOf, Config.nameBytes]

/-- A merged name has at most 12 bytes if the base's has (R173). -/
theorem merge_name_length (base : Record) (m : Word16) (rd : RD) (h : base.name.length ≤ 12) :
    (merge base m rd).name.length ≤ 12 := by
  simp only [merge, choose]
  split
  · exact recordOf_name_length rd
  · exact h

/-- The checks raise VALIDATION with the first failing field, or nothing happens. -/
theorem validateFields_cases (n : Byte) (m : Word16) (rd : RD) (s : State) :
    (∃ code, fieldFailure m rd = some code ∧ validateFields n m rd s = invalid code n s) ∨
    (fieldFailure m rd = none ∧ validateFields n m rd s = s) := by
  unfold validateFields
  split
  · next code h => exact .inl ⟨code, h, rfl⟩
  · next h => exact .inr ⟨h, rfl⟩

/-- What passes every check is a record in the validation domains (R41, R293). -/
theorem recordOk_recordOf (rd : RD) (h : fieldFailure allFields rd = none) : recordOk (recordOf rd) = true := by
  simp only [fieldFailure, fieldChecks, firstFailure, supplied, allFields] at h
  by_cases h0 : freqOk rd.rx = true <;> by_cases h1 : freqOk rd.tx = true <;> by_cases h2 : toneOk rd.rxt = true <;>
    by_cases h3 : toneOk rd.txt = true <;> simp_all [recordOk, recordOf, Config.nameBytes]

/-- A state differs from another only in what SEQ's own operations write: what the host and the
sequencer hold stands. -/
structure Untouched (s t : State) : Prop where
  stepPtr : t.stepPtr = s.stepPtr
  port : t.port = s.port
  host : t.host = s.host
  budget : t.budget = s.budget
  statusReads : t.statusReads = s.statusReads
  transcript : s.transcript <+: t.transcript
  responses : s.responses <+: t.responses

theorem Untouched.refl (s : State) : Untouched s s :=
  ⟨rfl, rfl, rfl, rfl, rfl, List.prefix_rfl, List.prefix_rfl⟩

theorem Untouched.trans {s t u : State} (a : Untouched s t) (b : Untouched t u) : Untouched s u :=
  ⟨b.stepPtr.trans a.stepPtr, b.port.trans a.port, b.host.trans a.host, b.budget.trans a.budget,
    b.statusReads.trans a.statusReads, a.transcript.trans b.transcript, a.responses.trans b.responses⟩

theorem untouched_tx (b : Byte) (s : State) : Untouched s (tx b s) := by
  constructor <;> simp

theorem untouched_rxState (n : Nat) (s : State) : Untouched s (rxState n s) := by
  constructor <;> simp

theorem untouched_out (item : List Byte) (s : State) : Untouched s (out item s) := by
  constructor <;> simp

theorem untouched_raise (c : FaultClass) (i : FaultInfo) (s : State) : Untouched s (raise c i s) := by
  constructor <;> simp

theorem untouched_writeFlag (f : Flag) (b : Bool) (s : State) : Untouched s (writeFlag f b s) := by
  constructor <;> simp

theorem untouched_loadRecord (d : List Byte) (s : State) : Untouched s (loadRecord d s) := by
  constructor <;> simp

theorem untouched_noteTruncation (b : Bool) (s : State) : Untouched s (noteTruncation b s) := by
  constructor <;> simp

theorem untouched_openingUsed (s : State) : Untouched s (openingUsed s) := by
  constructor <;> simp

theorem untouched_storeEncoded (r : Record) (s : State) : Untouched s (storeEncoded r s) := untouched_loadRecord _ _

theorem untouched_checkEncoded (r : Record) (s : State) : Untouched s (checkEncoded r s) := by
  rcases checkEncoded_cases r s with ⟨-, h⟩ | ⟨-, h⟩ <;> rw [h]
  · exact .refl s
  · exact untouched_raise _ _ _

theorem untouched_require (ok : Bool) (field chan : Byte) (s : State) : Untouched s (require ok field chan s) := by
  rcases require_cases ok field chan s with ⟨-, h⟩ | ⟨-, h⟩ <;> rw [h]
  · exact .refl s
  · exact untouched_raise _ _ _

theorem untouched_setEntry (n : Byte) (rd : RD) (s : State) : Untouched s (setEntry n rd s) := by
  rcases setEntry_cases n rd s with ⟨-, -, h⟩ | ⟨-, h⟩ <;> rw [h]
  · constructor <;> simp
  · exact .refl s

theorem untouched_checkAck (e : Byte) (s : State) : Untouched s (checkAck e s) := by
  rcases checkAck_cases e s with ⟨-, h⟩ | ⟨-, h⟩ <;> rw [h]
  · exact .refl s
  · exact untouched_raise _ _ _

theorem untouched_checkLength (s : State) : Untouched s (checkLength s) := by
  rcases checkLength_cases s with ⟨-, h⟩ | ⟨-, -, h⟩ | ⟨-, h⟩ <;> rw [h]
  · exact untouched_raise _ _ _
  · exact untouched_raise _ _ _
  · exact .refl s

theorem untouched_checkSum (s : State) : Untouched s (checkSum s) := by
  rcases checkSum_cases s with ⟨-, h⟩ | ⟨-, h⟩ <;> rw [h]
  · exact .refl s
  · exact untouched_raise _ _ _

/-- The frame of every micro-step: STEP, the host's ports and the schedule stand, and the transcript
and the response stream only grow (R45). -/
theorem perform_untouched (op : Micro) (s s' : State) (h : perform op s = .next s') : Untouched s s' := by
  have e : ∀ t, perform op s = .next t → Untouched s t → Untouched s s' := by
    intro t ht hu
    rw [ht] at h
    cases h
    exact hu
  cases op with
  | localValue => exact e _ rfl (.refl s)
  | rejectFrame r => exact e _ rfl (untouched_raise _ _ _)
  | clearWarning => exact e _ rfl (untouched_writeFlag _ _ _)
  | admitTransport =>
    refine e _ rfl ?_
    split
    · exact untouched_raise _ _ _
    · split
      · exact untouched_raise _ _ _
      · exact .refl s
  | admitOpen =>
    refine e _ rfl ?_
    split
    · exact .refl s
    · exact untouched_raise _ _ _
  | begin => exact e _ rfl (by constructor <;> simp)
  | refuseBattery => exact e _ rfl (by constructor <;> simp)
  | tx b => exact e _ rfl (untouched_tx _ _)
  | txRec i => exact e _ rfl (untouched_tx _ _)
  | txCheck => exact e _ rfl (untouched_tx _ _)
  | readAck => exact e _ rfl (untouched_rxState _ _)
  | checkAck b => exact e _ rfl (untouched_checkAck _ _)
  | readRecord => exact e _ rfl (untouched_rxState _ _)
  | checkLength => exact e _ rfl (untouched_checkLength _)
  | sumResponse => exact e _ rfl (by constructor <;> simp)
  | checkSum => exact e _ rfl (untouched_checkSum _)
  | takeRecord => exact e _ rfl (untouched_loadRecord _ _)
  | dwell => exact e _ rfl (by constructor <;> simp)
  | keyDown c =>
    by_cases hc : c = 127#7
    · simp [perform, hc] at h
    · exact e (tx (0x80#8 ||| c.setWidth 8) s) (by simp [perform, hc]) (untouched_tx _ _)
  | radioDisabled b => exact e _ rfl (untouched_writeFlag _ _ _)
  | remoteActive b => exact e _ rfl (untouched_writeFlag _ _ _)
  | address n =>
    by_cases hn : channelExists n = true
    · exact e _ (by simp [perform, hn]; rfl) (by constructor <;> simp)
    · simp [perform, hn] at h
  | sumRecord => exact e _ rfl (by constructor <;> simp)
  | validateChannel n => exact e _ rfl (untouched_require _ _ _ _)
  | validateFields n m rd =>
    refine e _ rfl ?_
    rcases validateFields_cases n m rd s with ⟨c, -, h⟩ | ⟨-, h⟩ <;> rw [h]
    · exact untouched_raise _ _ _
    · exact .refl s
  | noteTruncation b => exact e _ rfl (untouched_noteTruncation _ _)
  | validateKeys cs => exact e _ rfl (untouched_require _ _ _ _)
  | encode r => exact e _ rfl (untouched_storeEncoded _ _)
  | checkEncoded r => exact e _ rfl (untouched_checkEncoded _ _)
  | encodeMerged m rd => exact e _ rfl (untouched_storeEncoded _ _)
  | checkMerged m rd => exact e _ rfl (untouched_checkEncoded _ _)
  | fillEmpty => exact e _ rfl (untouched_loadRecord _ _)
  | loadFrame d c =>
    by_cases hd : (recordSized d && c == checksum d) = true
    · exact e (loadRecord d s) (by simp only [perform, hd, if_true]) (untouched_loadRecord _ _)
    · simp only [perform, hd] at h; cases h
  | noteEmpty => exact e _ rfl (untouched_writeFlag _ _ _)
  | requireSlot n =>
    refine e _ rfl ?_
    split
    · exact untouched_raise _ _ _
    · exact .refl s
  | setChanCtr n => exact e _ rfl (by constructor <;> simp)
  | exportItem =>
    refine e _ rfl ?_
    split
    · exact .refl s
    · exact untouched_out _ _
  | clearEntry j => exact e _ rfl (by constructor <;> simp)
  | requireAbsent n => exact e _ rfl (untouched_require _ _ _ _)
  | setEntry n rd => exact e _ rfl (untouched_setEntry _ _ _)
  | importSlot n =>
    refine e _ rfl ?_
    split
    · exact untouched_storeEncoded _ _
    · exact untouched_loadRecord _ _
  | checkSlot n =>
    refine e _ rfl ?_
    split
    · exact untouched_checkEncoded _ _
    · exact .refl s
  | requireOpen =>
    refine e _ rfl ?_
    split
    · exact untouched_openingUsed _
    · exact (untouched_openingUsed _).trans (untouched_raise _ _ _)
  | complete b => exact e _ rfl (by constructor <;> simp)
  | respond => exact e _ rfl (untouched_out _ _)
  | respondGet =>
    refine e _ rfl ?_
    split
    · exact untouched_out _ _
    · exact untouched_out _ _
  | respondRecord => exact e _ rfl (untouched_out _ _)
  | emit item => exact e _ rfl (untouched_out _ _)
  | setCheck c => exact e _ rfl (by constructor <;> simp)
  | setLastEmpty b => exact e _ rfl (untouched_writeFlag _ _ _)
  | requireGroups g => exact e _ rfl (untouched_require _ _ _ _)
  | requireLetters t => exact e _ rfl (untouched_require _ _ _ _)
  | requireCount v => exact e _ rfl (untouched_require _ _ _ _)
  | batteryExchange => simp [perform] at h

/-- The three micro-steps that stop the model, and when. -/
theorem perform_fault (op : Micro) (s : State) (f : Fault) (h : perform op s = .fault f) :
    (∃ c, op = .keyDown c ∧ c = 127#7 ∧ f = .keyCodeOutOfRange) ∨
    (∃ n, op = .address n ∧ channelExists n = false ∧ f = .noSuchChannel) ∨
    (∃ d c, op = .loadFrame d c ∧ (recordSized d && c == checksum d) = false ∧ f = .badWriteFrame) := by
  cases op with
  | keyDown c =>
    by_cases hc : c = 127#7
    · simp only [perform, hc, if_true, Host.Outcome.fault.injEq] at h; exact .inl ⟨c, rfl, hc, h.symm⟩
    · simp [perform, hc] at h
  | address n =>
    by_cases hn : channelExists n = true
    · simp [perform, hn] at h
    · simp only [perform, hn, Bool.false_eq_true, if_false, Host.Outcome.fault.injEq] at h
      exact .inr (.inl ⟨n, rfl, by simpa using hn, h.symm⟩)
  | loadFrame d c =>
    by_cases hd : (recordSized d && c == checksum d) = true
    · simp only [perform, hd, if_true] at h; cases h
    · simp only [perform, hd, Bool.false_eq_true, if_false, Host.Outcome.fault.injEq] at h
      exact .inr (.inr ⟨d, c, rfl, by simpa using hd, h.symm⟩)
  | _ => simp [perform] at h

end Sys2Proof.Machine
end

