-- ==== Sys2Proof/Laws/Sequencer.lean ====
section
/-! SUPPORT. How lists of micro-steps compose, and what acceptance and the step function can do. -/

namespace Sys2Proof.Machine

@[simp] theorem thread_nil (s : State) : thread [] s = .ran s := rfl

/-- One micro-step that goes on. -/
theorem thread_cons_next (op : Micro) (ops : List Micro) (s s' : State) (h : perform op s = .next s')
    (hh : halted s' = false) : thread (op :: ops) s = thread ops s' := by
  simp [thread, h, hh]

/-- One micro-step that raises a fault: STEP is frozen at it (R330). -/
theorem thread_cons_faulted (op : Micro) (ops : List Micro) (s s' : State) (h : perform op s = .next s')
    (hm : s'.mode = .faulted) : thread (op :: ops) s = .stopped s' (op :: ops) := by
  simp [thread, h, halted, frozenAt, hm]

/-- One micro-step that refuses the request: STEP is left at what follows it (R334). -/
theorem thread_cons_refused (op : Micro) (ops : List Micro) (s s' : State) (h : perform op s = .next s')
    (hm : s'.mode = .refused) : thread (op :: ops) s = .stopped s' ops := by
  simp [thread, h, halted, frozenAt, hm]

/-- What follows a list of micro-steps. -/
def Threaded.andThen (r : Threaded) (ops : List Micro) : Threaded :=
  match r with
  | .ran s => thread ops s
  | .stopped s frozen => .stopped s (frozen ++ ops)
  | .fault f => .fault f
  | .refused q => .refused q

/-- Running two lists one after the other is running their concatenation. -/
theorem thread_append (as bs : List Micro) (s : State) : thread (as ++ bs) s = (thread as s).andThen bs := by
  induction as generalizing s with
  | nil => rfl
  | cons op as ih =>
    simp only [List.cons_append, thread]
    split
    · split
      · simp only [Threaded.andThen, frozenAt]; split <;> rfl
      · exact ih _
    · rfl
    · rfl

/-- A list that ran whole: what comes after it starts where it ended. -/
theorem thread_append_ran (as bs : List Micro) (s t : State) (h : thread as s = .ran t) :
    thread (as ++ bs) s = thread bs t := by
  rw [thread_append, h]; rfl

/-- A list that stopped: nothing after it runs (R331). -/
theorem thread_append_stopped (as bs : List Micro) (s t : State) (frozen : List Micro)
    (h : thread as s = .stopped t frozen) : thread (as ++ bs) s = .stopped t (frozen ++ bs) := by
  rw [thread_append, h]; rfl

theorem thread_ran_untouched (ops : List Micro) (s t : State) (h : thread ops s = .ran t) : Untouched s t := by
  induction ops generalizing s with
  | nil => simp only [thread, Threaded.ran.injEq] at h; subst h; exact .refl _
  | cons op ops ih =>
    simp only [thread] at h
    split at h
    · next s' hp =>
      split at h
      · cases h
      · exact (perform_untouched op s s' hp).trans (ih _ h)
    · cases h
    · cases h

theorem thread_stopped_untouched (ops : List Micro) (s t : State) (frozen : List Micro)
    (h : thread ops s = .stopped t frozen) : Untouched s t := by
  induction ops generalizing s with
  | nil => cases h
  | cons op ops ih =>
    simp only [thread] at h
    split at h
    · next s' hp =>
      split at h
      · simp only [Threaded.stopped.injEq] at h; rw [← h.1]; exact perform_untouched _ _ _ hp
      · exact (perform_untouched op s s' hp).trans (ih _ h)
    · cases h
    · cases h

/-- A list that stopped did so because SEQ halted. -/
theorem thread_stopped_halted (ops : List Micro) (s t : State) (frozen : List Micro)
    (h : thread ops s = .stopped t frozen) : halted t = true := by
  induction ops generalizing s with
  | nil => cases h
  | cons op ops ih =>
    simp only [thread] at h
    split at h
    · split at h
      · next hh => cases h; exact hh
      · exact ih _ h
    · cases h
    · cases h

@[simp] theorem settle_ran (s : State) : settle (.ran s) = .next s := rfl
@[simp] theorem settle_stopped (s : State) (frozen : List Micro) :
    settle (.stopped s frozen) = .next { s with stepPtr := frozen ++ s.stepPtr } := rfl

/-- The request in progress run to its end. -/
theorem advance_unlimited (s : State) (h : s.budget = none) :
    advance s = settle (thread s.stepPtr { s with stepPtr := [] }) := by
  simp [advance, h]

/-- The request in progress run for `k` micro-steps. -/
theorem advance_limited (s : State) (k : Nat) (h : s.budget = some k) :
    advance s = settle (thread (s.stepPtr.take k) { s with stepPtr := s.stepPtr.drop k, budget := none }) := by
  simp [advance, h]

theorem accepts_idle (s : State) (hs : s.stepPtr = []) (hm : s.mode = .idle) : accepts s = true := by
  simp [accepts, hs, hm]

theorem accepts_closed (s : State) (hs : s.stepPtr = []) (hm : s.mode = .closed) : accepts s = true := by
  simp [accepts, hs, hm]

theorem accepts_terminated (s : State) (hs : s.stepPtr = []) (hm : s.mode = .terminated) : accepts s = true := by
  simp [accepts, hs, hm]

/-- What acceptance always does: WARN_NAME_TRUNC is cleared (R26, R240). -/
theorem thread_acceptOps (ops : List Micro) (s : State) (hm : halted s = false) :
    thread (acceptOps ++ ops) s = thread ops (writeFlag .warnNameTrunc false s) := by
  simp only [acceptOps, List.cons_append, List.nil_append]
  rw [thread_cons_next _ _ s s rfl hm]
  exact thread_cons_next _ _ _ _ rfl hm

theorem halted_of_accepts (s : State) (h : accepts s = true) : halted s = false := by
  simp only [accepts, Bool.and_eq_true, Bool.or_eq_true, beq_iff_eq] at h
  rcases h.2 with (h | h) | h <;> simp [halted, h]

/-- A request taken, run without a limit. -/
theorem takeRequest_ok (chan : Byte) (ops : List Micro) (s : State) (ha : accepts s = true) (hb : s.budget = none) :
    takeRequest chan ops s =
      settle (thread ops { s with flags := setBit s.flags 2 false, reqChan := chan, stepPtr := [] }) := by
  rw [takeRequest, if_pos ha]
  refine (advance_unlimited { s with reqChan := chan, stepPtr := acceptOps ++ ops } hb).trans ?_
  exact congrArg settle (thread_acceptOps ops { s with reqChan := chan, stepPtr := [] } (halted_of_accepts s ha))

/-- A transport request accepted in IDLE runs its pseudocode to the end (R240). -/
theorem runRequest_idle (chan : Byte) (ops : List Micro) (s : State) (hs : s.stepPtr = [])
    (hb : s.budget = none) (hm : s.mode = .idle) :
    runRequest chan ops s =
      settle (thread ops { s with
        mode := .busy, flags := setBit s.flags 2 false, reqChan := chan, stepPtr := [] }) := by
  rw [runRequest, takeRequest_ok _ _ _ (accepts_idle s hs hm) hb,
    thread_cons_next _ _ _ { s with flags := setBit s.flags 2 false, reqChan := chan, stepPtr := [] }
      (by simp [perform, hm]) (by simp [halted, hm])]
  exact congrArg settle (thread_cons_next _ _ _ _ rfl rfl)

/-- A transport request before OPEN (R329, reason 2). -/
theorem takeRequest_closed (chan : Byte) (ops : List Micro) (s : State) (hs : s.stepPtr = [])
    (hb : s.budget = none) (hm : s.mode = .closed) :
    takeRequest chan (.admitTransport :: ops) s = .next { illegalRequest 2#8 s with
      flags := setBit s.flags 2 false, reqChan := chan, stepPtr := .admitTransport :: ops } := by
  rw [takeRequest_ok _ _ _ (accepts_closed s hs hm) hb, thread_cons_faulted _ _ _
    (illegalRequest 2#8 { s with flags := setBit s.flags 2 false, reqChan := chan, stepPtr := [] })
    (by simp [perform, hm]) rfl]
  simp [illegalRequest, raise, out]

/-- A transport request after the radio's reset (R329, reason 3). -/
theorem takeRequest_terminated (chan : Byte) (ops : List Micro) (s : State) (hs : s.stepPtr = [])
    (hb : s.budget = none) (hm : s.mode = .terminated) :
    takeRequest chan (.admitTransport :: ops) s = .next { illegalRequest 3#8 s with
      flags := setBit s.flags 2 false, reqChan := chan, stepPtr := .admitTransport :: ops } := by
  rw [takeRequest_ok _ _ _ (accepts_terminated s hs hm) hb, thread_cons_faulted _ _ _
    (illegalRequest 3#8 { s with flags := setBit s.flags 2 false, reqChan := chan, stepPtr := [] })
    (by simp [perform, hm]) rfl]
  simp [illegalRequest, raise, out]

/-- A wire command of a request in progress. -/
theorem runWire_busy (ops : List Micro) (s : State) (hm : s.mode = .busy) :
    runWire ops s = settle (thread ops s) := by
  simp [runWire, hm]

/-- The step function, case by case: the host's turn, nothing to do, the request in progress, a frame
that is no request, a request. -/
theorem step_cases (s : State) :
    (∃ t, hostTurn s = some t ∧ step s = .next t) ∨
    (hostTurn s = none ∧ fetch (seqTurn s) = .idle ∧ step s = .next (seqTurn s)) ∨
    (hostTurn s = none ∧ fetch (seqTurn s) = .resume ∧ step s = advance (seqTurn s)) ∨
    (∃ r t, hostTurn s = none ∧ fetch (seqTurn s) = .illegal r t ∧ step s = rejectRequest r t) ∨
    (∃ i t, hostTurn s = none ∧ fetch (seqTurn s) = .request i t ∧ step s = exec i t) := by
  rcases hh : hostTurn s with _ | t
  · rcases hf : fetch (seqTurn s) with _ | _ | ⟨r, t⟩ | ⟨i, t⟩
    · exact .inr (.inl ⟨rfl, rfl, by simp [step, seqStep, hh, hf]⟩)
    · exact .inr (.inr (.inl ⟨rfl, rfl, by simp [step, seqStep, hh, hf]⟩))
    · exact .inr (.inr (.inr (.inl ⟨r, t, rfl, rfl, by simp [step, seqStep, hh, hf]⟩)))
    · exact .inr (.inr (.inr (.inr ⟨i, t, rfl, rfl, by simp [step, seqStep, hh, hf]⟩)))
  · exact .inl ⟨t, rfl, by simp [step, hh]⟩

end Sys2Proof.Machine
end

