-- ==== Sys2Proof/Laws/Brackets.lean ====
section
/-! SUPPORT. What the acknowledged commands and the two brackets do when PEER answers them as the
protocol expects, each said once for every request that uses it. -/

namespace Sys2Proof.Machine

theorem setBit_comm (v : Byte) (i j : Nat) (a b : Bool) (h : i ≠ j) :
    setBit (setBit v i a) j b = setBit (setBit v j b) i a := by
  apply BitVec.eq_of_getLsbD_eq
  intro k hk
  simp only [getLsbD_setBit _ _ _ _ hk]
  by_cases hi : i = k
  · have : j ≠ k := fun e => h (hi.trans e.symm)
    simp [hi, this]
  · simp [hi]

@[simp] theorem halted_of_busy (s : State) (h : s.mode = .busy) : halted s = false := by
  simp [halted, h]

/-- A micro-step that stays in BUSY goes on to the next. -/
theorem thread_cons_busy (op : Micro) (ops : List Micro) (s t : State) (h : perform op s = .next t)
    (hm : t.mode = .busy) : thread (op :: ops) s = thread ops t :=
  thread_cons_next op ops s t h (halted_of_busy t hm)

/-- `ACK(e)` when the byte read is `e`. -/
theorem thread_ackOps_ok (e : Byte) (ops : List Micro) (s : State) (hm : s.mode = .busy)
    (h : (peerBytes 1 s).head? = some e) : thread (ackOps e ++ ops) s = thread ops (rxState 1 s) := by
  have hk : checkAck e (rxState 1 s) = rxState 1 s := by
    rcases checkAck_cases e (rxState 1 s) with ⟨-, hk⟩ | ⟨hk, -⟩
    · exact hk
    · exact absurd (by simpa using h) hk
  simp only [ackOps, List.cons_append, List.nil_append]
  rw [thread_cons_busy _ _ s (rxState 1 s) rfl (by simp [hm])]
  exact thread_cons_busy _ _ _ _ (by rw [perform, hk]) (by simp [hm])

/-- `ACK(e)` when no byte is read, or another one: ACK_MISMATCH, STEP frozen at the test (R201, R330). -/
theorem thread_ackOps_bad (e : Byte) (ops : List Micro) (s : State) (hm : s.mode = .busy)
    (h : (peerBytes 1 s).head? ≠ some e) : thread (ackOps e ++ ops) s = .stopped
      (raise .ackMismatch
        { expected := some e, received := (peerBytes 1 s).head?, chan := s.reqChan, cmd := e } (rxState 1 s))
      (.checkAck e :: ops) := by
  have hk : checkAck e (rxState 1 s) = raise .ackMismatch
      { expected := some e, received := (peerBytes 1 s).head?, chan := s.reqChan, cmd := e } (rxState 1 s) := by
    rcases checkAck_cases e (rxState 1 s) with ⟨hk, -⟩ | ⟨-, hk⟩
    · exact absurd (by simpa using hk) h
    · simpa using hk
  simp only [ackOps, List.cons_append, List.nil_append]
  rw [thread_cons_busy _ _ s (rxState 1 s) rfl (by simp [hm])]
  exact thread_cons_faulted _ _ _ _ (by rw [perform, hk]) rfl

/-- `TX(e); ACK(e)` where PEER echoes `e`. -/
theorem thread_txAck (e : Byte) (ops : List Micro) (s : State) (hm : s.mode = .busy) (hp : peerBytes 1 s = [e]) :
    thread (.tx e :: (ackOps e ++ ops)) s = thread ops { peerUsed s with
      transcript := s.transcript ++ [.tx e, .rx 1 [e]]
      txCount := s.txCount + 1#32
      rxCount := s.rxCount + 1#32 } := by
  have hq : peerBytes 1 (tx e s) = [e] := hp
  rw [thread_cons_busy _ _ s (tx e s) rfl (by simp [hm]), thread_ackOps_ok e ops _ (by simp [hm]) (by rw [hq]; rfl),
    rxState_of 1 [e] _ hq]
  simp [peerUsed, tx]

/-- W_DISABLE acknowledged (R202). -/
theorem thread_wDisable (ops : List Micro) (s : State) (hm : s.mode = .busy) (hp : peerBytes 1 s = [0x45#8]) :
    thread (wDisable ++ ops) s = thread ops { peerUsed s with
      flags := setBit s.flags 0 true
      transcript := s.transcript ++ [.tx 0x45#8, .rx 1 [0x45#8]]
      txCount := s.txCount + 1#32
      rxCount := s.rxCount + 1#32 } := by
  simp only [wDisable, List.cons_append, List.nil_append, List.append_assoc]
  rw [thread_txAck _ _ s hm hp]
  exact thread_cons_busy _ _ _ _ rfl hm

/-- W_ENABLE acknowledged (R203). -/
theorem thread_wEnable (ops : List Micro) (s : State) (hm : s.mode = .busy) (hp : peerBytes 1 s = [0x46#8]) :
    thread (wEnable ++ ops) s = thread ops { peerUsed s with
      flags := setBit s.flags 0 false
      transcript := s.transcript ++ [.tx 0x46#8, .rx 1 [0x46#8]]
      txCount := s.txCount + 1#32
      rxCount := s.rxCount + 1#32 } := by
  simp only [wEnable, List.cons_append, List.nil_append, List.append_assoc]
  rw [thread_txAck _ _ s hm hp]
  exact thread_cons_busy _ _ _ _ rfl hm

/-- The read response, in the order of R205: none, too short, a wrong checksum, or taken. -/
theorem thread_responseOps (ops : List Micro) (s : State) (hm : s.mode = .busy) :
    ((peerBytes 33 s).length = 0 ∧ thread (responseOps ++ ops) s = .stopped
      (raise .emptyResponse { chan := s.reqChan, cmd := 0x30#8 } (rxState 33 s)) (responseOps.drop 1 ++ ops)) ∨
    (0 < (peerBytes 33 s).length ∧ (peerBytes 33 s).length < 33 ∧ thread (responseOps ++ ops) s = .stopped
      (raise .shortResponse
        { sub := BitVec.ofNat 8 (peerBytes 33 s).length, chan := s.reqChan, cmd := 0x30#8 } (rxState 33 s))
      (responseOps.drop 1 ++ ops)) ∨
    (33 ≤ (peerBytes 33 s).length ∧ checksum ((peerBytes 33 s).take 32) ≠ byteAt (peerBytes 33 s) 32 ∧
      thread (responseOps ++ ops) s = .stopped
        (raise .checksumMismatch
          { expected := some (checksum ((peerBytes 33 s).take 32)), received := some (byteAt (peerBytes 33 s) 32),
            chan := s.reqChan, cmd := 0x30#8 }
          { rxState 33 s with ckReg := checksum ((peerBytes 33 s).take 32) }) (responseOps.drop 3 ++ ops)) ∨
    (33 ≤ (peerBytes 33 s).length ∧ checksum ((peerBytes 33 s).take 32) = byteAt (peerBytes 33 s) 32 ∧
      thread (responseOps ++ ops) s = thread ops
        { rxState 33 s with
          ckReg := checksum ((peerBytes 33 s).take 32), recBuf := Memory.ofBytes ((peerBytes 33 s).take 32) }) := by
  have h0 : thread (responseOps ++ ops) s = thread (responseOps.drop 1 ++ ops) (rxState 33 s) :=
    thread_cons_busy _ _ s (rxState 33 s) rfl (by simp [hm])
  have hr : lastRead (rxState 33 s) = peerBytes 33 s := lastRead_rxState 33 s
  rcases checkLength_cases (rxState 33 s) with ⟨h1, e⟩ | ⟨h1, h2, e⟩ | ⟨h1, e⟩ <;> rw [hr] at h1
  · exact .inl ⟨h1, h0.trans (thread_cons_faulted _ _ _ _ (by rw [perform, e]; simp) rfl)⟩
  · rw [hr] at h2 e
    exact .inr (.inl ⟨h1, h2, h0.trans (thread_cons_faulted _ _ _ _ (by rw [perform, e]; simp) rfl)⟩)
  · have h3 : thread (responseOps ++ ops) s = thread (responseOps.drop 3 ++ ops)
        { rxState 33 s with ckReg := checksum ((peerBytes 33 s).take 32) } := by
      refine h0.trans ((thread_cons_busy _ _ _ (rxState 33 s) (by rw [perform, e]) (by simp [hm])).trans ?_)
      exact thread_cons_busy _ _ _ _ (by rw [perform, hr]) (by simp [hm])
    have hq : lastRead { rxState 33 s with ckReg := checksum ((peerBytes 33 s).take 32) } = peerBytes 33 s := hr
    rcases checkSum_cases { rxState 33 s with ckReg := checksum ((peerBytes 33 s).take 32) } with ⟨h4, e4⟩ | ⟨h4, e4⟩ <;>
      rw [hq] at h4
    · refine .inr (.inr (.inr ⟨h1, h4, h3.trans ?_⟩))
      refine (thread_cons_busy _ _ _ _ (by rw [perform, e4]) (by simp [hm])).trans ?_
      exact thread_cons_busy _ _ _ _ (by rw [perform, hq]; rfl) (by simp [hm])
    · refine .inr (.inr (.inl ⟨h1, h4, h3.trans ?_⟩))
      rw [hq] at e4
      exact thread_cons_faulted _ _ _ _ (by rw [perform, e4]; simp) rfl

/-- W_READ_CH answered with 32 data bytes and their checksum (R204). -/
theorem thread_wReadCh (n : Byte) (d : List Byte) (ops : List Micro) (s : State) (hm : s.mode = .busy)
    (hn : channelExists n = true) (hd : d.length = 32) (hp : peerBytes 33 s = d ++ [checksum d]) :
    thread (wReadCh n ++ ops) s = thread ops { peerUsed s with
      addrReg := n
      ckReg := checksum d
      recBuf := Memory.ofBytes d
      transcript := s.transcript ++ [.tx 0x30#8, .tx n, .rx 33 (d ++ [checksum d])]
      txCount := s.txCount + 2#32
      rxCount := s.rxCount + 33#32 } := by
  have ht : (d ++ [checksum d]).take 32 = d := by rw [List.take_append_of_le_length (by omega), ← hd, List.take_length]
  have hb : byteAt (d ++ [checksum d]) 32 = checksum d := by simp [byteAt, List.getD_eq_getElem?_getD, hd]
  simp only [wReadCh, List.cons_append, List.nil_append]
  rw [thread_cons_busy _ _ s { s with addrReg := n } (by simp [perform, hn]) hm,
    thread_cons_busy _ _ _ _ rfl (by simp [hm]), thread_cons_busy _ _ _ _ rfl (by simp [hm])]
  have hpb : peerBytes 33 (tx n (tx 0x30#8 { s with addrReg := n })) = d ++ [checksum d] := hp
  rcases thread_responseOps ops (tx n (tx 0x30#8 { s with addrReg := n })) (by simp [hm]) with
    ⟨h, -⟩ | ⟨-, h, -⟩ | ⟨-, h, -⟩ | ⟨-, -, h⟩
  · rw [hpb] at h; simp at h
  · rw [hpb] at h; simp [hd] at h
  · rw [hpb, ht, hb] at h; exact absurd rfl h
  · rw [h, hpb, ht, rxState_of 33 _ _ hpb]
    simp [peerUsed, tx, hd, BitVec.add_assoc]

/-- Transmitting bytes of REC_BUF one after the other (R206). -/
theorem thread_txRec (is : List (Fin 32)) (ops : List Micro) (s : State) (hm : s.mode = .busy) :
    thread (is.map .txRec ++ ops) s = thread ops { s with
      transcript := s.transcript ++ is.map fun i => .tx (s.recBuf.read i.val)
      txCount := s.txCount + BitVec.ofNat 32 is.length } := by
  induction is generalizing s with
  | nil => simp
  | cons i is ih =>
    simp only [List.map_cons, List.cons_append]
    rw [thread_cons_busy _ _ s (tx (s.recBuf.read i.val) s) rfl (by simp [hm]), ih _ (by simp [hm])]
    simp [tx, BitVec.add_assoc, BitVec.ofNat_add, BitVec.add_comm]

theorem recordBytes_eq_finRange (m : Memory) :
    ((List.finRange 32).map fun i => Event.tx (m.read i.val)) = m.bytes.map .tx := by
  apply List.ext_getElem
  · simp [Memory.bytes, Config.recordBytes]
  · intro i h1 h2
    simp [Memory.bytes]

/-- W_WRITE_CH acknowledged, REC_BUF holding `d` (R206). -/
theorem thread_wWriteCh (n : Byte) (d : List Byte) (ops : List Micro) (s : State) (hm : s.mode = .busy)
    (hn : channelExists n = true) (hd : s.recBuf.bytes = d) (hp : peerBytes 1 s = [0x31#8]) :
    thread (wWriteCh n ++ ops) s = thread ops { peerUsed s with
      addrReg := n
      ckReg := checksum d
      transcript := s.transcript ++ ([.tx 0x31#8, .tx n] ++ d.map .tx ++ [.tx (checksum d), .rx 1 [0x31#8]])
      txCount := s.txCount + 35#32
      rxCount := s.rxCount + 1#32 } := by
  simp only [wWriteCh, List.cons_append, List.nil_append, List.append_assoc]
  rw [thread_cons_busy _ _ s { s with addrReg := n } (by simp [perform, hn]) hm,
    thread_cons_busy _ _ _ { s with addrReg := n, ckReg := checksum d } (by simp [perform, recordBytes, hd]) hm,
    thread_cons_busy _ _ _ _ rfl (by simp [hm]), thread_cons_busy _ _ _ _ rfl (by simp [hm]), txRecord,
    thread_txRec _ _ _ (by simp [hm]), thread_cons_busy _ _ _ _ rfl (by simp [hm])]
  have hq : ∀ t : State, t.peer = s.peer → t.peerDraws = s.peerDraws → peerBytes 1 t = [0x31#8] := fun t h1 h2 =>
    (peerBytes_congr 1 s t h1 h2).trans hp
  refine Eq.trans (thread_ackOps_ok _ _ _ (by simp [hm]) (congrArg List.head? (hq _ rfl rfl))) ?_
  refine Eq.trans (congrArg (thread ops) (rxState_of 1 [0x31#8] _ (by exact hq _ rfl rfl))) ?_
  simp [tx, peerUsed, recordBytes_eq_finRange, hd, BitVec.add_assoc]

/-- BRACKET_READ answered in full (R216). -/
theorem thread_bracketRead (n : Byte) (d : List Byte) (ops : List Micro) (s : State) (hm : s.mode = .busy)
    (hn : channelExists n = true) (hd : d.length = 32) (hp : Answered (readReads d) s) :
    thread (bracketRead n ++ ops) s = thread ops { peerAfter 3 s with
      flags := setBit s.flags 0 false
      addrReg := n
      ckReg := checksum d
      recBuf := Memory.ofBytes d
      transcript := s.transcript ++ readEvents n d
      txCount := s.txCount + 4#32
      rxCount := s.rxCount + 35#32 } := by
  obtain ⟨h1, h2, h3, -⟩ := hp
  simp only [bracketRead, List.append_assoc]
  rw [thread_wDisable _ s hm h1]
  refine Eq.trans (thread_wReadCh n d _ _ (by exact hm) hn hd (by exact h2)) ?_
  refine Eq.trans (thread_wEnable _ _ (by exact hm) (by exact h3)) ?_
  simp [peerAfter_succ, peerUsed, readEvents, setBit_setBit, BitVec.add_assoc]

/-- BRACKET_WRITE answered in full, REC_BUF holding `d` (R217). -/
theorem thread_bracketWrite (n : Byte) (d : List Byte) (ops : List Micro) (s : State) (hm : s.mode = .busy)
    (hn : channelExists n = true) (hd : s.recBuf.bytes = d) (hp : Answered writeReads s) :
    thread (bracketWrite n ++ ops) s = thread ops { peerAfter 3 s with
      flags := setBit s.flags 0 false
      addrReg := n
      ckReg := checksum d
      transcript := s.transcript ++ writeEvents n d
      txCount := s.txCount + 37#32
      rxCount := s.rxCount + 3#32 } := by
  obtain ⟨h1, h2, h3, -⟩ := hp
  simp only [bracketWrite, List.append_assoc]
  rw [thread_wDisable _ s hm h1]
  refine Eq.trans (thread_wWriteCh n d _ _ (by exact hm) hn (by exact hd) (by exact h2)) ?_
  refine Eq.trans (thread_wEnable _ _ (by exact hm) (by exact h3)) ?_
  simp [peerAfter_succ, peerUsed, writeEvents, setBit_setBit, BitVec.add_assoc]

/-- A request's end: MODE is IDLE and the status byte is sent (R241). -/
theorem thread_finishIdle (s : State) : thread finishIdle s =
    .ran { s with mode := .idle, responses := s.responses ++ [[statusByte s]] } := by
  rw [finishIdle, thread_cons_next _ _ _ { s with mode := .idle } rfl rfl, thread_cons_next _ _ _ _ rfl rfl]
  rfl

/-- The end of a request that sent the radio's reset: MODE is TERMINATED (R241). -/
theorem thread_finishTerminated (s : State) : thread finishTerminated s =
    .ran { s with mode := .terminated, responses := s.responses ++ [[statusByte s]] } := by
  rw [finishTerminated, thread_cons_next _ _ _ { s with mode := .terminated } rfl rfl,
    thread_cons_next _ _ _ _ rfl rfl]
  rfl

/-- A wire command's meaning is its micro-steps, when a request is in progress. -/
theorem exec_wire (i : Instr) (s : State) (h : isWire i = true) (hm : s.mode = .busy) :
    exec i s = settle (thread (wireOps i) s) := by
  cases i <;> simp [isWire, wireOps] at h <;> first
    | exact runWire_busy _ s hm
    | rfl

/-- A host request's meaning is its acceptance and its pseudocode, taken as one list of micro-steps. -/
theorem exec_request (i : Instr) (h : isWire i = false) :
    ∃ chan ops, ∀ s, exec i s = takeRequest chan ops s := by
  cases i <;> first
    | exact ⟨_, _, fun _ => rfl⟩
    | exact absurd h (by simp [isWire, wireOps, wReadCh, wWriteFrame, wBattery, wDisable, wEnable, wFlashOn, wFlashOff,
        wReset, wRemoteStart, wRemoteEnd, wKeyDown, wKeyUp])

end Sys2Proof.Machine
end

