-- ==== Sys2Proof/Laws/Bytes.lean ====
section
/-! SUPPORT. Byte order: the bytes of a little-endian value are the bytes it was made from, and the value
made from the bytes of a value is that value (00_scope.md R12). -/

namespace Sys2Proof.Machine

theorem getLsbD_append_ite {m n : Nat} (x : BitVec m) (y : BitVec n) (i : Nat) :
    (x ++ y).getLsbD i = if i < n then y.getLsbD i else x.getLsbD (i - n) := by
  rw [BitVec.getLsbD_append]

/-- Byte order of two bytes joined, the first being the low one. -/
theorem bytesLE16_append (a b : Byte) : bytesLE16 (b ++ a) = [a, b] := by
  simp only [bytesLE16, List.cons.injEq, and_true]
  constructor <;> ext i hi <;> rw [BitVec.getElem_extractLsb'] <;>
    refine (getLsbD_append_ite b a _).trans ?_ <;> simp [hi]

/-- Byte order of four bytes joined, the first being the low one. -/
theorem bytesLE32_append (a b c d : Byte) : bytesLE32 ((d ++ c) ++ (b ++ a)) = [a, b, c, d] := by
  have e : ∀ i, BitVec.getLsbD (w := 32) ((d ++ c) ++ (b ++ a)) i =
      if i < 16 then (if i < 8 then a.getLsbD i else b.getLsbD (i - 8))
      else (if i - 16 < 8 then c.getLsbD (i - 16) else d.getLsbD (i - 16 - 8)) := by
    intro i
    refine (getLsbD_append_ite (d ++ c) (b ++ a) i).trans ?_
    split
    · exact getLsbD_append_ite _ _ _
    · exact getLsbD_append_ite _ _ _
  simp only [bytesLE32, List.cons.injEq, and_true]
  refine ⟨?_, ?_, ?_, ?_⟩ <;> ext i hi <;> rw [BitVec.getElem_extractLsb', e]
  · rw [if_pos (by omega), if_pos (by omega)]; simp [hi]
  · rw [if_pos (by omega), if_neg (by omega)]; simp [hi]
  · rw [if_neg (by omega), if_pos (by omega)]; simp [hi]
  · rw [if_neg (by omega), if_neg (by omega)]; simp [hi, show 24 + i - 16 - 8 = i by omega]

theorem bytesLE16_le16 (s : List Byte) (o : Nat) : bytesLE16 (le16 s o) = [byteAt s o, byteAt s (o + 1)] :=
  bytesLE16_append _ _

theorem bytesLE32_le32 (s : List Byte) (o : Nat) :
    bytesLE32 (le32 s o) = [byteAt s o, byteAt s (o + 1), byteAt s (o + 2), byteAt s (o + 3)] :=
  bytesLE32_append _ _ _ _

/-- A 16-bit value joined from its two bytes. -/
theorem joinBytes16 (v : Word16) : v.extractLsb' 8 8 ++ v.extractLsb' 0 8 = v := by
  apply BitVec.eq_of_getLsbD_eq
  intro i hi
  refine (getLsbD_append_ite _ _ i).trans ?_
  split
  · next h => simp [h]
  · next h => simp [show i - 8 < 8 by omega, show 8 + (i - 8) = i by omega]

/-- A 32-bit value joined from its four bytes. -/
theorem joinBytes32 (v : Word32) :
    (v.extractLsb' 24 8 ++ v.extractLsb' 16 8) ++ (v.extractLsb' 8 8 ++ v.extractLsb' 0 8) = v := by
  apply BitVec.eq_of_getLsbD_eq
  intro i hi
  refine (getLsbD_append_ite _ _ i).trans ?_
  split
  · refine (getLsbD_append_ite _ _ i).trans ?_
    split
    · next h => simp [h]
    · next h => simp [show i - 8 < 8 by omega, show 8 + (i - 8) = i by omega]
  · refine (getLsbD_append_ite _ _ _).trans ?_
    split
    · next h => simp [h, show 16 + (i - 16) = i by omega]
    · next h => simp [show i - 16 - 8 < 8 by omega, show 24 + (i - 16 - 8) = i by omega]

theorem le16_bytesLE16 (v : Word16) : le16 (bytesLE16 v) 0 = v := joinBytes16 v

theorem le32_bytesLE32 (v : Word32) : le32 (bytesLE32 v) 0 = v := joinBytes32 v

/-- The checksum of one sequence after another (40_checksum.md R130). -/
theorem checksum_append (s t : List Byte) : checksum (s ++ t) = checksum s + checksum t := by
  induction s with
  | nil => simp [checksum]
  | cons b s ih => simp only [List.cons_append, checksum, ih, BitVec.add_assoc]

end Sys2Proof.Machine
end

