-- ==== Sys2Proof/Laws/Decode.lean ====
section
/-! SUPPORT. What each parser of the decoder can read, said once: of what the encoder writes it reads
exactly that, and what it reads is what the encoder would write. -/

namespace Sys2Proof

open Machine (le16 le32 bytesLE16 bytesLE32 joinBytes16 joinBytes32 bytesLE16_le16 bytesLE32_le32)

theorem splitBytes_append (a b : List Byte) : splitBytes a.length (a ++ b) = some (a, b) := by
  induction a with
  | nil => cases b <;> rfl
  | cons x a ih => simp [splitBytes, ih]

theorem splitBytes_eq_some (n : Nat) (s a b : List Byte) (h : splitBytes n s = some (a, b)) :
    s = a ++ b ∧ a.length = n := by
  induction n generalizing s a with
  | zero =>
    cases s <;>
    · simp only [splitBytes, Option.some.injEq, Prod.mk.injEq] at h
      obtain ⟨rfl, rfl⟩ := h
      simp
  | succ n ih =>
    cases s with
    | nil => cases h
    | cons x s =>
      simp only [splitBytes, Option.map_eq_some_iff] at h
      obtain ⟨⟨c, d⟩, h1, h2⟩ := h
      simp only [Prod.mk.injEq] at h2
      obtain ⟨rfl, rfl⟩ := h2
      simp [ih s c h1]

theorem parseCounted_encodeCounted (a b : List Byte) (h : countFits a = true) :
    parseCounted (encodeCounted a ++ b) = some (a, b) := by
  simp only [countFits, decide_eq_true_eq] at h
  simp only [encodeCounted, List.cons_append, parseCounted]
  rw [show (BitVec.ofNat 8 a.length).toNat = a.length by simp; omega, splitBytes_append]

theorem parseCounted_eq_some (s a b : List Byte) (h : parseCounted s = some (a, b)) :
    s = encodeCounted a ++ b ∧ countFits a = true := by
  cases s with
  | nil => cases h
  | cons k s =>
    obtain ⟨rfl, h2⟩ := splitBytes_eq_some _ _ _ _ h
    have hk := k.isLt
    simp only [encodeCounted, countFits, h2, BitVec.ofNat_toNat, BitVec.setWidth_eq, List.cons_append,
      decide_eq_true_eq, true_and]
    omega

/-- The fixed bytes of an `RD`, read back. -/
theorem rdOf_encoded (rd : RD) (n : List Byte) :
    rdOf (bytesLE32 rd.rx ++ bytesLE32 rd.tx ++ bytesLE16 rd.rxt ++ bytesLE16 rd.txt ++
      [rd.pwr, rd.g0, rd.g1, rd.g2, rd.g3, rd.modulation, rd.bandwidth]) n = { rd with name := n } := by
  have e1 : ∀ v : Word32, (v.extractLsb' 24 8 ++ v.extractLsb' 16 8) ++ (v.extractLsb' 8 8 ++ v.extractLsb' 0 8) = v :=
    joinBytes32
  have e2 : ∀ v : Word16, (v.extractLsb' 8 8 ++ v.extractLsb' 0 8) = v := joinBytes16
  simp only [rdOf, le32, le16, Machine.byteAt, bytesLE32, bytesLE16, List.cons_append, List.nil_append,
    Nat.reduceAdd, List.getD_cons_zero, List.getD_cons_succ, e1, e2]

theorem parseRD_encodeRD (rd : RD) (b : List Byte) (h : rd.wellFormed = true) :
    parseRD (encodeRD rd ++ b) = some (rd, b) := by
  have hs : encodeRD rd ++ b = (bytesLE32 rd.rx ++ bytesLE32 rd.tx ++ bytesLE16 rd.rxt ++ bytesLE16 rd.txt ++
      [rd.pwr, rd.g0, rd.g1, rd.g2, rd.g3, rd.modulation, rd.bandwidth]) ++ (encodeCounted rd.name ++ b) := by
    simp [encodeRD]
  have h19 := splitBytes_append (bytesLE32 rd.rx ++ bytesLE32 rd.tx ++ bytesLE16 rd.rxt ++ bytesLE16 rd.txt ++
    [rd.pwr, rd.g0, rd.g1, rd.g2, rd.g3, rd.modulation, rd.bandwidth]) (encodeCounted rd.name ++ b)
  rw [← hs] at h19
  simp only [bytesLE32, bytesLE16, List.length_append, List.length_cons, List.length_nil] at h19
  unfold parseRD
  rw [h19]
  simp only [parseCounted_encodeCounted _ _ h, Option.map_some]
  exact congrArg (fun r => some (r, b)) (rdOf_encoded rd rd.name)

/-- The 19 bytes `rdOf` reads are the ones the encoder writes for what it read. -/
theorem encoded_rdOf (h : List Byte) (hl : h.length = 19) :
    bytesLE32 (le32 h 0) ++ bytesLE32 (le32 h 4) ++ bytesLE16 (le16 h 8) ++ bytesLE16 (le16 h 10) ++
      [Machine.byteAt h 12, Machine.byteAt h 13, Machine.byteAt h 14, Machine.byteAt h 15, Machine.byteAt h 16,
        Machine.byteAt h 17, Machine.byteAt h 18] = h := by
  simp only [bytesLE32_le32, bytesLE16_le16]
  apply List.ext_getElem
  · simp [hl]
  · intro i h1 h2
    rw [hl] at h2
    interval_cases i <;> simp [Machine.byteAt, List.getD_eq_getElem?_getD, hl]

theorem parseRD_eq_some (s : List Byte) (rd : RD) (b : List Byte) (h : parseRD s = some (rd, b)) :
    s = encodeRD rd ++ b ∧ rd.wellFormed = true := by
  unfold parseRD at h
  split at h
  · cases h
  · next u v hu =>
    simp only [Option.map_eq_some_iff, Prod.mk.injEq] at h
    obtain ⟨⟨c, d⟩, h1, rfl, rfl⟩ := h
    obtain ⟨rfl, k2⟩ := splitBytes_eq_some _ _ _ _ hu
    obtain ⟨rfl, k4⟩ := parseCounted_eq_some _ _ _ h1
    refine ⟨?_, k4⟩
    simp only [encodeRD, rdOf]
    rw [encoded_rdOf u k2]
    simp

theorem parseEntries_encoded (es : List (Byte × RD)) (b : List Byte) (h : ∀ e ∈ es, e.2.wellFormed = true) :
    parseEntries es.length ((es.flatMap fun e => e.1 :: encodeRD e.2) ++ b) = some (es, b) := by
  induction es with
  | nil => cases b <;> rfl
  | cons e es ih =>
    simp only [List.flatMap_cons, List.cons_append, List.length_cons, parseEntries, List.append_assoc]
    rw [parseRD_encodeRD _ _ (h e (by simp))]
    simp only [ih (fun x hx => h x (by simp [hx])), Option.map_some]

theorem parseEntries_eq_some (k : Nat) (s : List Byte) (es : List (Byte × RD)) (b : List Byte)
    (h : parseEntries k s = some (es, b)) :
    s = (es.flatMap fun e => e.1 :: encodeRD e.2) ++ b ∧ es.length = k ∧ ∀ e ∈ es, e.2.wellFormed = true := by
  induction k generalizing s es with
  | zero =>
    cases s <;>
    · simp only [parseEntries, Option.some.injEq, Prod.mk.injEq] at h
      obtain ⟨rfl, rfl⟩ := h
      simp
  | succ k ih =>
    cases s with
    | nil => cases h
    | cons n s =>
      simp only [parseEntries] at h
      split at h
      · cases h
      · next rd t hr =>
        simp only [Option.map_eq_some_iff, Prod.mk.injEq] at h
        obtain ⟨⟨c, d⟩, h1, rfl, rfl⟩ := h
        obtain ⟨k1, k2⟩ := parseRD_eq_some _ _ _ hr
        obtain ⟨k3, k4, k5⟩ := ih _ _ h1
        refine ⟨by rw [k1, k3]; simp, by simp [k4], ?_⟩
        intro e he
        rcases List.mem_cons.1 he with rfl | he
        · exact k2
        · exact k5 e he

end Sys2Proof
end

