-- ==== Sys2Proof/Laws/Paused.lean ====
section
/-! SUPPORT. No micro-step reads or writes STEP, the host's limit or what stands at the host's ports: what
a list of them does is the same whatever those hold (10_state.md R42, R44). -/

namespace Sys2Proof.Machine

/-- `s` with STEP, the host's limit, the frames at the port, the host's actions and the status answers
replaced. -/
def paused (x : List Micro) (b : Option Nat) (p : List (List Byte)) (h : List HostAction)
    (r : List (Byte × Word32)) (s : State) : State :=
  { s with stepPtr := x, budget := b, port := p, host := h, statusReads := r }

/-- An outcome with its next state, if any, changed. -/
def mapNext (f : State → State) : Host.Outcome State Fault Refusal → Host.Outcome State Fault Refusal
  | .next s => .next (f s)
  | .fault x => .fault x
  | .refused r => .refused r

/-- A list's end with its state, if any, changed. -/
def Threaded.mapState (f : State → State) : Threaded → Threaded
  | .ran s => .ran (f s)
  | .stopped s z => .stopped (f s) z
  | .fault x => .fault x
  | .refused r => .refused r

section
variable (x : List Micro) (b : Option Nat) (p : List (List Byte)) (h : List HostAction) (r : List (Byte × Word32))
  (s : State)

theorem checkEncoded_paused (q : Record) :
    checkEncoded q (paused x b p h r s) = paused x b p h r (checkEncoded q s) := by
  unfold checkEncoded
  split <;> rfl

theorem noteTruncation_paused (w : Bool) :
    noteTruncation w (paused x b p h r s) = paused x b p h r (noteTruncation w s) := by
  cases w <;> rfl

theorem validateFields_paused (n : Byte) (m : Word16) (rd : RD) :
    validateFields n m rd (paused x b p h r s) = paused x b p h r (validateFields n m rd s) := by
  unfold validateFields
  split <;> rfl

theorem require_paused (ok : Bool) (field chan : Byte) :
    require ok field chan (paused x b p h r s) = paused x b p h r (require ok field chan s) := by
  cases ok <;> rfl

theorem setEntry_paused (n : Byte) (rd : RD) :
    setEntry n rd (paused x b p h r s) = paused x b p h r (setEntry n rd s) := by
  unfold setEntry
  split <;> rfl

theorem checkAck_paused (e : Byte) : checkAck e (paused x b p h r s) = paused x b p h r (checkAck e s) := by
  unfold checkAck
  rw [show lastRead (paused x b p h r s) = lastRead s from rfl]
  split
  · rfl
  · split <;> rfl

theorem checkLength_paused : checkLength (paused x b p h r s) = paused x b p h r (checkLength s) := by
  unfold checkLength
  rw [show lastRead (paused x b p h r s) = lastRead s from rfl]
  split
  · rfl
  · split <;> rfl

theorem checkSum_paused : checkSum (paused x b p h r s) = paused x b p h r (checkSum s) := by
  unfold checkSum
  rw [show lastRead (paused x b p h r s) = lastRead s from rfl, show (paused x b p h r s).ckReg = s.ckReg from rfl]
  split <;> rfl

/-- One micro-step does the same whatever those fields hold. -/
theorem perform_paused (op : Micro) :
    perform op (paused x b p h r s) = mapNext (paused x b p h r) (perform op s) := by
  have hm : (paused x b p h r s).mode = s.mode := rfl
  have hr : recordBytes (paused x b p h r s) = recordBytes s := rfl
  have hw : (paused x b p h r s).ws = s.ws := rfl
  have ho : openingOk (paused x b p h r s) = openingOk s := rfl
  cases op with
  | admitTransport => simp only [perform, mapNext, hm]; split; rfl; split <;> rfl
  | admitOpen => simp only [perform, mapNext, hm]; split <;> rfl
  | checkAck e => simp only [perform, mapNext, checkAck_paused]
  | checkLength => simp only [perform, mapNext, checkLength_paused]
  | checkSum => simp only [perform, mapNext, checkSum_paused]
  | keyDown c => simp only [perform]; split <;> rfl
  | address n => simp only [perform]; split <;> rfl
  | validateChannel n => simp only [perform, mapNext, require_paused]
  | validateFields n m rd => simp only [perform, mapNext, validateFields_paused]
  | noteTruncation w => simp only [perform, mapNext, noteTruncation_paused]
  | validateKeys cs => simp only [perform, mapNext, require_paused]
  | checkEncoded q => simp only [perform, mapNext, checkEncoded_paused]
  | checkMerged m rd => simp only [perform, mapNext, hr, checkEncoded_paused]
  | loadFrame d c => simp only [perform]; split <;> rfl
  | requireSlot n => simp only [perform, mapNext, hr]; split <;> rfl
  | exportItem => simp only [perform, mapNext, hr]; split <;> rfl
  | requireAbsent n => simp only [perform, mapNext, hw, require_paused]
  | setEntry n rd => simp only [perform, mapNext, setEntry_paused]
  | importSlot n => simp only [perform, mapNext, hw]; split <;> rfl
  | checkSlot n =>
    simp only [perform, mapNext, hw]
    split
    · rw [checkEncoded_paused]
    · rfl
  | requireOpen => simp only [perform, mapNext, ho]; split <;> rfl
  | complete t => cases t <;> rfl
  | respondGet => simp only [perform, mapNext, hr]; split <;> rfl
  | requireGroups g => simp only [perform, mapNext, require_paused]
  | requireLetters t => simp only [perform, mapNext, require_paused]
  | requireCount v => simp only [perform, mapNext, require_paused]
  | _ => rfl

/-- A list of micro-steps does the same whatever those fields hold. -/
theorem thread_paused (ops : List Micro) :
    thread ops (paused x b p h r s) = (thread ops s).mapState (paused x b p h r) := by
  induction ops generalizing s with
  | nil => rfl
  | cons op ops ih =>
    simp only [thread, perform_paused]
    rcases perform op s with t | f | q
    · simp only [mapNext, show halted (paused x b p h r t) = halted t from rfl]
      split
      · rfl
      · exact ih t
    · rfl
    · rfl

end

end Sys2Proof.Machine
end

