-- ==== Sys2Proof/Laws/PerInstr.lean ====
section
/-! SUPPORT. The family TableRow: the first byte of every encoding has the bits that the instruction's row
of the opcode table fixes (30_encoding.md R91, R111, R115). One lemma per constructor of Instr. -/

namespace Sys2Proof.Laws

/-- The mask and the match of the instruction's row. -/
def tableRow : Instr → Byte × Byte
  | .wReadCh _ => (0xFF#8, 0x30#8)
  | .wWriteCh _ _ _ => (0xFF#8, 0x31#8)
  | .wBattery => (0xFF#8, 0x32#8)
  | .wDisable => (0xFF#8, 0x45#8)
  | .wEnable => (0xFF#8, 0x46#8)
  | .wFlashOn => (0xFF#8, 0x47#8)
  | .wFlashOff => (0xFF#8, 0x48#8)
  | .wReset => (0xFF#8, 0x49#8)
  | .wRemoteStart => (0xFF#8, 0x4A#8)
  | .wRemoteEnd => (0xFF#8, 0x4B#8)
  | .wKeyDown _ => (0x80#8, 0x80#8)
  | .wKeyUp => (0xFF#8, 0xFF#8)
  | .get _ => (0xFF#8, 0x01#8)
  | .put _ _ => (0xFF#8, 0x02#8)
  | .erase _ => (0xFF#8, 0x03#8)
  | .writeNew _ _ _ => (0xFF#8, 0x04#8)
  | .update _ _ _ => (0xFF#8, 0x05#8)
  | .exportAll => (0xFF#8, 0x06#8)
  | .importAll _ => (0xFF#8, 0x07#8)
  | .sendKeys _ => (0xFF#8, 0x08#8)
  | .flashOn => (0xFF#8, 0x09#8)
  | .flashOff => (0xFF#8, 0x0A#8)
  | .resetRadio => (0xFF#8, 0x0B#8)
  | .readBattery => (0xFF#8, 0x0C#8)
  | .openTransport => (0xFF#8, 0x0F#8)
  | .checksum _ => (0xFF#8, 0x10#8)
  | .groupDecode _ _ => (0xFF#8, 0x11#8)
  | .groupEncode _ => (0xFF#8, 0x12#8)
  | .groupFromLetters _ => (0xFF#8, 0x13#8)
  | .groupToLetters _ => (0xFF#8, 0x14#8)
  | .recordDecode _ => (0xFF#8, 0x15#8)
  | .recordEncode _ => (0xFF#8, 0x16#8)
  | .isEmpty _ => (0xFF#8, 0x17#8)

/-- The encoding begins with a byte of the instruction's row. -/
def TableRow.Statement (i : Instr) : Prop :=
  ∃ (b : Byte) (operands : List Byte), encode i = b :: operands ∧ b &&& (tableRow i).1 = (tableRow i).2

/-- A row that fixes the whole first byte. -/
theorem TableRow.whole (i : Instr) (b : Byte) (operands : List Byte) (h : encode i = b :: operands)
    (hr : tableRow i = (0xFF#8, b)) : Statement i := by
  refine ⟨b, operands, h, ?_⟩
  rw [hr]
  exact BitVec.and_allOnes

theorem TableRow.wReadCh (n : Byte) : Statement (.wReadCh n) :=
  TableRow.whole _ _ _ rfl rfl

theorem TableRow.wWriteCh (n : Byte) (d : List Byte) (c : Byte) : Statement (.wWriteCh n d c) :=
  TableRow.whole _ _ _ rfl rfl

theorem TableRow.wBattery : Statement .wBattery :=
  TableRow.whole _ _ _ rfl rfl

theorem TableRow.wDisable : Statement .wDisable :=
  TableRow.whole _ _ _ rfl rfl

theorem TableRow.wEnable : Statement .wEnable :=
  TableRow.whole _ _ _ rfl rfl

theorem TableRow.wFlashOn : Statement .wFlashOn :=
  TableRow.whole _ _ _ rfl rfl

theorem TableRow.wFlashOff : Statement .wFlashOff :=
  TableRow.whole _ _ _ rfl rfl

theorem TableRow.wReset : Statement .wReset :=
  TableRow.whole _ _ _ rfl rfl

theorem TableRow.wRemoteStart : Statement .wRemoteStart :=
  TableRow.whole _ _ _ rfl rfl

theorem TableRow.wRemoteEnd : Statement .wRemoteEnd :=
  TableRow.whole _ _ _ rfl rfl

theorem TableRow.wKeyDown (c : BitVec 7) : Statement (.wKeyDown c) :=
  ⟨_, _, rfl, (show ∀ x : BitVec 7, (0x80#8 ||| x.setWidth 8) &&& 0x80#8 = 0x80#8 by decide) c⟩

theorem TableRow.wKeyUp : Statement .wKeyUp :=
  TableRow.whole _ _ _ rfl rfl

theorem TableRow.get (n : Byte) : Statement (.get n) :=
  TableRow.whole _ _ _ rfl rfl

theorem TableRow.put (n : Byte) (rd : RD) : Statement (.put n rd) :=
  TableRow.whole _ _ _ rfl rfl

theorem TableRow.erase (n : Byte) : Statement (.erase n) :=
  TableRow.whole _ _ _ rfl rfl

theorem TableRow.writeNew (n : Byte) (m : Word16) (rd : RD) : Statement (.writeNew n m rd) :=
  TableRow.whole _ _ _ rfl rfl

theorem TableRow.update (n : Byte) (m : Word16) (rd : RD) : Statement (.update n m rd) :=
  TableRow.whole _ _ _ rfl rfl

theorem TableRow.exportAll : Statement .exportAll :=
  TableRow.whole _ _ _ rfl rfl

theorem TableRow.importAll (entries : List (Byte × RD)) : Statement (.importAll entries) :=
  TableRow.whole _ _ _ rfl rfl

theorem TableRow.sendKeys (codes : List Byte) : Statement (.sendKeys codes) :=
  TableRow.whole _ _ _ rfl rfl

theorem TableRow.flashOn : Statement .flashOn :=
  TableRow.whole _ _ _ rfl rfl

theorem TableRow.flashOff : Statement .flashOff :=
  TableRow.whole _ _ _ rfl rfl

theorem TableRow.resetRadio : Statement .resetRadio :=
  TableRow.whole _ _ _ rfl rfl

theorem TableRow.readBattery : Statement .readBattery :=
  TableRow.whole _ _ _ rfl rfl

theorem TableRow.openTransport : Statement .openTransport :=
  TableRow.whole _ _ _ rfl rfl

theorem TableRow.checksum (s : List Byte) : Statement (.checksum s) :=
  TableRow.whole _ _ _ rfl rfl

theorem TableRow.groupDecode (b0 b1 : Byte) : Statement (.groupDecode b0 b1) :=
  TableRow.whole _ _ _ rfl rfl

theorem TableRow.groupEncode (g : List Byte) : Statement (.groupEncode g) :=
  TableRow.whole _ _ _ rfl rfl

theorem TableRow.groupFromLetters (t : List Byte) : Statement (.groupFromLetters t) :=
  TableRow.whole _ _ _ rfl rfl

theorem TableRow.groupToLetters (v : List Byte) : Statement (.groupToLetters v) :=
  TableRow.whole _ _ _ rfl rfl

theorem TableRow.recordDecode (s : List Byte) : Statement (.recordDecode s) :=
  TableRow.whole _ _ _ rfl rfl

theorem TableRow.recordEncode (rd : RD) : Statement (.recordEncode rd) :=
  TableRow.whole _ _ _ rfl rfl

theorem TableRow.isEmpty (s : List Byte) : Statement (.isEmpty s) :=
  TableRow.whole _ _ _ rfl rfl

end Sys2Proof.Laws
end

