-- ==== Sys2Proof/Laws/Requests.lean ====
section
/-! SUPPORT. The micro-steps the requests share outside their brackets: the validators, the encode, the
empty test and IMPORT_ALL's validation phase, each said once, passing and failing. -/

namespace Sys2Proof.Machine

/-! ### Faults in closed form -/

theorem illegalRequest_eq (reason : Byte) (s : State) : illegalRequest reason s = illegalFault reason s := by
  simp [illegalRequest, raise, out, illegalFault, faultFrame, latched, faultCode]

theorem invalid_eq (field chan : Byte) (s : State) : invalid field chan s = validationFault field chan s := by
  simp [invalid, raise, out, validationFault, faultFrame, latched, faultCode]

/-! ### Locals and validators -/

/-- An assignment to a local changes no element. -/
theorem thread_localValue (ops : List Micro) (s : State) (hm : halted s = false) :
    thread (.localValue :: ops) s = thread ops s := thread_cons_next _ _ _ _ rfl hm

/-- `validate_channel(n)` passing (R281). -/
theorem thread_validateChannel_ok (n : Byte) (ops : List Micro) (s : State) (hm : halted s = false)
    (hn : channelOk n = true) : thread (.validateChannel n :: ops) s = thread ops s :=
  thread_cons_next _ _ _ _ (by simp [perform, hn, require]) hm

/-- `validate_channel(n)` failing (R281). -/
theorem thread_validateChannel_bad (n : Byte) (ops : List Micro) (s : State) (hn : channelOk n = false) :
    thread (.validateChannel n :: ops) s = .stopped (validationFault 1#8 n s) (.validateChannel n :: ops) :=
  thread_cons_faulted _ _ _ _ (by simp [perform, hn, require, invalid_eq]) rfl

/-- `validate_supplied(rd, M)` passing: what is left of it is the warning of a truncated name (R293). -/
theorem thread_validateOps_ok (n : Byte) (m : Word16) (rd : RD) (ops : List Micro) (s : State)
    (hm : halted s = false) (hf : fieldFailure m rd = none) :
    thread (validateOps n m rd ++ ops) s = thread ops (noteTruncation (truncates m rd) s) :=
  (thread_cons_next _ _ _ s (by simp [perform, validateFields, hf]) hm).trans
    (thread_cons_next _ _ _ _ rfl (by simpa [halted] using hm))

/-- `validate_supplied(rd, M)` failing (R293). -/
theorem thread_validateFields_bad (n : Byte) (m : Word16) (rd : RD) (code : Byte) (ops : List Micro) (s : State)
    (hf : fieldFailure m rd = some code) :
    thread (.validateFields n m rd :: ops) s =
      .stopped (validationFault code n s) (.validateFields n m rd :: ops) :=
  thread_cons_faulted _ _ _ _ (by simp [perform, validateFields, hf, invalid_eq]) rfl

/-- WARN_NAME_TRUNC after a validation, from FLAGS as acceptance left them. -/
theorem noteTruncation_accepted (long : Bool) (s : State) (v : Byte) (h : s.flags = setBit v 2 false) :
    noteTruncation long s = { s with flags := setBit v 2 long } := by
  cases long
  · simp [noteTruncation, ← h]
  · simp [noteTruncation, writeFlag, flagBit, h, setBit_setBit]

/-! ### Encoding and the empty test -/

/-- `REC_BUF <- rencode(r); check length = 32` of a name that fits (R165, R169). -/
theorem thread_encodeOps (r : Record) (ops : List Micro) (s : State) (hm : halted s = false)
    (hr : r.name.length ≤ 12) : thread (encodeOps r ++ ops) s = thread ops (loadRecord (rencode r) s) :=
  (thread_cons_next _ _ _ (loadRecord (rencode r) s) (by rw [perform, storeEncoded_ok _ _ hr]) hm).trans
    (thread_cons_next _ _ _ _ (by rw [perform, checkEncoded_ok _ _ hr]) hm)

/-- `e <- is_empty(REC_BUF); FLAGS.LAST_EMPTY <- e` (R242). -/
theorem thread_emptyOps (d : List Byte) (ops : List Micro) (s : State) (hm : s.mode = .busy)
    (hb : s.recBuf = Memory.ofBytes d) (hd : d.length = 32) :
    thread (emptyOps ++ ops) s = thread ops { s with flags := setBit s.flags 3 (isEmptyRecord d) } := by
  have hr : recordBytes s = d := by rw [recordBytes, hb, Memory.bytes_ofBytes d hd]
  simp only [emptyOps, List.cons_append, List.nil_append]
  rw [thread_localValue _ _ (halted_of_busy s hm),
    thread_cons_busy _ _ _ (writeFlag .lastEmpty (isEmptyRecord d) s) (by simp only [perform, hr]) hm]
  rfl

/-! ### IMPORT_ALL's validation phase (R248) -/

theorem thread_clearEntries (js : List Byte) (ops : List Micro) (s : State) (hm : halted s = false) :
    thread (js.map .clearEntry ++ ops) s =
      thread ops { s with ws := js.foldl (fun w j => wsErase j w) s.ws } := by
  induction js generalizing s with
  | nil => rfl
  | cons j js ih =>
    simp only [List.map_cons, List.cons_append, List.foldl_cons]
    rw [thread_cons_next _ _ _ { s with ws := wsErase j s.ws } rfl hm]
    exact ih _ hm

theorem mem_channels (n : Byte) (h : channelOk n = true) : n ∈ channels := by
  have all : ∀ n : Byte, channelOk n = true → n ∈ channels := by decide +kernel
  exact all n h

/-- The 198 assignments `WS[j] <- absent` leave WS empty. -/
theorem thread_clearAll (ops : List Micro) (s : State) (hm : halted s = false) (hw : workingSetWf s.ws = true) :
    thread (channels.map .clearEntry ++ ops) s = thread ops { s with ws := [] } := by
  rw [thread_clearEntries _ _ _ hm, foldl_wsErase_all _ _ mem_channels hw]

/-- Of a channel that no entry names, WS holds nothing. -/
theorem wsLookup_importedSet_none (n : Byte) (entries : List (Byte × RD)) (h : n ∉ entries.map Prod.fst) :
    wsLookup n (importedSet entries) = none := by
  suffices ∀ w : WorkingSet, wsLookup n w = none →
      wsLookup n (entries.foldl (fun w e => wsInsert e.1 (recordOf e.2) w) w) = none from this [] rfl
  induction entries with
  | nil => exact fun _ hw => hw
  | cons e es ih =>
    intro w hw
    simp only [List.map_cons, List.mem_cons, not_or] at h
    exact ih h.2 _ (by rw [wsLookup_wsInsert_other _ _ _ _ h.1]; exact hw)

/-- Of a channel that an entry names, WS holds a record. -/
theorem wsLookup_importedSet_some (n : Byte) (entries : List (Byte × RD)) (h : n ∈ entries.map Prod.fst) :
    (wsLookup n (importedSet entries)).isSome = true := by
  suffices ∀ w : WorkingSet, (n ∈ entries.map Prod.fst ∨ (wsLookup n w).isSome = true) →
      (wsLookup n (entries.foldl (fun w e => wsInsert e.1 (recordOf e.2) w) w)).isSome = true from this [] (.inl h)
  clear h
  induction entries with
  | nil => intro w h; simpa using h
  | cons e es ih =>
    intro w h
    refine ih _ ?_
    by_cases he : n = e.1
    · exact .inr (by rw [he, wsLookup_wsInsert_same]; rfl)
    · rw [wsLookup_wsInsert_other _ _ _ _ he]
      simpa [he] using h

/-- One valid entry whose channel WS does not hold. -/
theorem thread_importEntry (e : Byte × RD) (ops : List Micro) (s : State) (v : Byte) (b : Bool)
    (hm : s.mode = .busy) (hn : channelOk e.1 = true) (hf : fieldFailure allFields e.2 = none)
    (hw : wsLookup e.1 s.ws = none) (hb : s.flags = setBit v 2 b) :
    thread (importEntry e ++ ops) s =
      thread ops { s with
        ws := wsInsert e.1 (recordOf e.2) s.ws
        flags := setBit v 2 (b || truncates allFields e.2) } := by
  have hh := halted_of_busy s hm
  have hnote : noteTruncation (truncates allFields e.2) s =
      { s with flags := setBit v 2 (b || truncates allFields e.2) } := by
    unfold noteTruncation
    split
    · next h => simp [h, writeFlag, flagBit, hb, setBit_setBit]
    · next h => simp [h, ← hb]
  simp only [importEntry, List.cons_append, List.append_assoc, List.nil_append]
  rw [thread_validateChannel_ok _ _ _ hh hn,
    thread_cons_next (.requireAbsent e.1) _ _ s (by simp [perform, hw, require]) hh,
    thread_validateOps_ok _ _ _ _ _ hh hf, hnote]
  exact thread_cons_busy _ _ _ _ (by simp [perform, setEntry, hn, hf]) hm

/-- The entries `es` of a valid import, those of `done` being in WS already. -/
theorem thread_importEntries (es done : List (Byte × RD)) (ops : List Micro) (s : State) (v : Byte) (b : Bool)
    (hv : ImportValid (done ++ es)) (hm : s.mode = .busy) (hw : s.ws = importedSet done)
    (hb : s.flags = setBit v 2 b) :
    thread (es.flatMap importEntry ++ ops) s =
      thread ops { s with
        ws := importedSet (done ++ es)
        flags := setBit v 2 (b || es.any fun e => truncates allFields e.2) } := by
  induction es generalizing s done b with
  | nil =>
    have : s = { s with ws := importedSet done, flags := setBit v 2 b } := by rw [← hw, ← hb]
    simpa using congrArg (thread ops) this
  | cons e es ih =>
    have hnew : wsLookup e.1 s.ws = none := by
      rw [hw]
      refine wsLookup_importedSet_none _ _ fun hmem => ?_
      have hd := hv.distinct
      rw [List.map_append, List.map_cons, List.nodup_append] at hd
      exact hd.2.2 _ hmem _ (by simp) rfl
    simp only [List.flatMap_cons, List.append_assoc]
    rw [thread_importEntry e _ s v b hm (hv.channels e (by simp)) (hv.fields e (by simp)) hnew hb]
    have hws : wsInsert e.1 (recordOf e.2) s.ws = importedSet (done ++ [e]) := by
      simp [importedSet, hw, List.foldl_append]
    rw [hws]
    refine (ih (done ++ [e]) { s with ws := importedSet (done ++ [e]), flags := _ }
      (b || truncates allFields e.2) (by simpa using hv) hm rfl rfl).trans ?_
    simp [Bool.or_assoc]

/-- IMPORT_ALL's validation phase over valid entries, whatever comes after them. -/
theorem thread_importValid (es : List (Byte × RD)) (ops : List Micro) (s : State) (v : Byte)
    (hv : ImportValid es) (hm : s.mode = .busy) (hw : workingSetWf s.ws = true) (hf : s.flags = setBit v 2 false) :
    thread (channels.map .clearEntry ++ (es.flatMap importEntry ++ ops)) s =
      thread ops { s with
        ws := importedSet es, flags := setBit v 2 (es.any fun e => truncates allFields e.2) } := by
  rw [thread_clearAll _ _ (halted_of_busy s hm) hw]
  refine (thread_importEntries es [] ops { s with ws := [] } v false hv hm rfl hf).trans ?_
  simp

theorem importOps_append (before after : List (Byte × RD)) (e : Byte × RD) :
    importOps (before ++ e :: after) =
      channels.map .clearEntry ++ (before.flatMap importEntry ++ (importEntry e ++ importFrom after)) := by
  simp [importOps, importCheck, importFrom, List.append_assoc]

/-- IMPORT_ALL come to an entry whose predecessors are valid. -/
theorem exec_importAll_at (before after : List (Byte × RD)) (e : Byte × RD) (s : State) (hr : Ready s)
    (hm : s.mode = .idle) (hw : workingSetWf s.ws = true) (hv : ImportValid before) :
    exec (.importAll (before ++ e :: after)) s =
      settle (thread (importEntry e ++ importFrom after)
        { s with
          mode := .busy, flags := setBit s.flags 2 (before.any fun e => truncates allFields e.2)
          reqChan := 0#8, stepPtr := [], ws := importedSet before }) := by
  refine (runRequest_idle _ _ _ hr.await hr.unlimited hm).trans ?_
  rw [importOps_append]
  exact congrArg settle (thread_importValid before _ _ s.flags hv rfl hw rfl)

end Sys2Proof.Machine
end

