-- ==== Sys2Proof/Tests/Slice0.lean ====
section
/-! SUPPORT. Tests: what WellFormed refuses, the decoding of words written out from 30_encoding.md's tables,
single instructions against 95_test_vectors.md, and a witness that the hypotheses of each statement can be
met. Expected values come from the spec's tables and vectors, never from the model. -/

set_option maxRecDepth 20000
set_option Elab.async false

namespace Sys2Proof.Tests

open Sys2Proof.Machine

/-! ### Helpers -/

/-- The next state, if the outcome is one. -/
def nextState : Host.Outcome State Fault Refusal → Option State
  | .next t => some t
  | .fault _ => none
  | .refused _ => none

/-- The fault, if the outcome is one. -/
def faultOf : Host.Outcome State Fault Refusal → Option Fault
  | .next _ => none
  | .fault f => some f
  | .refused _ => none

/-- SEQ in IDLE, PEER about to give these answers. -/
def idle (answers : List (List Byte)) : State := { State.reset with mode := .idle, peer := answers }

/-- SEQ in BUSY, PEER about to give these answers. -/
def busy (answers : List (List Byte)) : State := { State.reset with mode := .busy, peer := answers }

/-- PEER's answers to a read bracket of a slot that holds `d`. -/
def readAnswers (d : List Byte) : List (List Byte) := [[0x45], d ++ [checksum d], [0x46]]

/-- PEER's answers to a write bracket. -/
def writeAnswers : List (List Byte) := [[0x45], [0x31], [0x46]]

/-- SEQ in TERMINATED. -/
def terminated : State := { State.reset with mode := .terminated }

/-- The responses and the transcript a request leaves. -/
def seen (i : Instr) (s : State) : Option (List (List Byte) × List Event) :=
  (nextState (exec i s)).map fun t => (t.responses, t.transcript)

/-- The responses a request leaves. -/
def answers (i : Instr) (s : State) : Option (List (List Byte)) := (nextState (exec i s)).map State.responses

def s1 : List Byte :=
  [0xA0, 0x40, 0xDD, 0x00, 0xA0, 0x40, 0xDD, 0x00, 0x00, 0x00, 0x00, 0x00, 0x0A, 0x21, 0x00, 0xF8] ++
  [0xFF, 0xFF, 0xFF, 0xFF, 0x00, 0x00, 0x00, 0x00, 0x00, 0x00, 0x00, 0x00, 0x00, 0x00, 0x00, 0x00]

def defBytes : List Byte :=
  [0x18, 0x2D, 0xDD, 0x00, 0x18, 0x2D, 0xDD, 0x00, 0x00, 0x00, 0x00, 0x00, 0x00, 0x00, 0x00, 0xF9] ++
  [0xFF, 0xFF, 0xFF, 0xFF, 0x00, 0x00, 0x00, 0x00, 0x00, 0x00, 0x00, 0x00, 0x00, 0x00, 0x00, 0x00]

def raw : List Byte :=
  [0x90, 0x8A, 0xDF, 0x00, 0xF0, 0x03, 0xDE, 0x00, 0x75, 0x03, 0xE8, 0x03, 0x05, 0x03, 0x00, 0x03] ++
  [0x00, 0x00, 0x00, 0x00, 0x52, 0x45, 0x50, 0x45, 0x41, 0x54, 0x45, 0x52, 0x00, 0x00, 0x00, 0x00]

def upd : List Byte :=
  [0x90, 0x8A, 0xDF, 0x00, 0xF0, 0x03, 0xDE, 0x00, 0x75, 0x03, 0xE8, 0x03, 0x14, 0x03, 0x00, 0xFB] ++
  [0xFF, 0xFF, 0xFF, 0xFF, 0x52, 0x45, 0x50, 0x45, 0x41, 0x54, 0x45, 0x52, 0x00, 0x00, 0x00, 0x00]

def rawn : List Byte :=
  [0x90, 0x8A, 0xDF, 0x00, 0xF0, 0x03, 0xDE, 0x00, 0x75, 0x03, 0xE8, 0x03, 0x05, 0x03, 0x00, 0xFB] ++
  [0xFF, 0xFF, 0xFF, 0xFF, 0x52, 0x45, 0x50, 0x45, 0x41, 0x54, 0x45, 0x52, 0x00, 0x00, 0x00, 0x00]

def maxBytes : List Byte :=
  [0xC0, 0x20, 0x90, 0x02, 0xC0, 0x20, 0x90, 0x02, 0xED, 0x09, 0x9E, 0x02, 0xFF, 0xEF, 0xCD, 0xFE] ++
  [0xFF, 0xFF, 0xFF, 0xFF, 0x41, 0x42, 0x43, 0x44, 0x45, 0x46, 0x47, 0x48, 0x49, 0x4A, 0x4B, 0x4C]

def minBytes : List Byte :=
  [0x40, 0x77, 0x1B, 0x00, 0x80, 0xA4, 0xBF, 0x07, 0x9E, 0x02, 0xED, 0x09, 0x00, 0x00, 0x00, 0xFB] ++
  [0xFF, 0xFF, 0xFF, 0xFF, 0x58, 0x00, 0x00, 0x00, 0x00, 0x00, 0x00, 0x00, 0x00, 0x00, 0x00, 0x00]

def rdS1Bytes : List Byte :=
  [0xA0, 0x40, 0xDD, 0x00, 0xA0, 0x40, 0xDD, 0x00, 0x00, 0x00, 0x00, 0x00, 0x0A, 0x01, 0x02, 0x00] ++
  [0x00, 0x00, 0x00, 0x00]

def rdRawBytes : List Byte :=
  [0x90, 0x8A, 0xDF, 0x00, 0xF0, 0x03, 0xDE, 0x00, 0x75, 0x03, 0xE8, 0x03, 0x05, 0x03, 0x00, 0x00] ++
  [0x00, 0x01, 0x01, 0x08, 0x52, 0x45, 0x50, 0x45, 0x41, 0x54, 0x45, 0x52]

def rdMaxBytes : List Byte :=
  [0xC0, 0x20, 0x90, 0x02, 0xC0, 0x20, 0x90, 0x02, 0xED, 0x09, 0x9E, 0x02, 0xFF, 0x0F, 0x0E, 0x0D] ++
  [0x0C, 0x03, 0x00, 0x0C, 0x41, 0x42, 0x43, 0x44, 0x45, 0x46, 0x47, 0x48, 0x49, 0x4A, 0x4B, 0x4C]

/-- RD_S1 of 95_test_vectors.md. -/
def rdS1 : RD := ⟨14500000, 14500000, 0, 0, 10, 1, 2, 0, 0, 0, 0, []⟩

/-- RD_RAW of 95_test_vectors.md; the name is "REPEATER". -/
def rdRaw : RD :=
  ⟨14650000, 14550000, 885, 1000, 5, 3, 0, 0, 0, 1, 1, [0x52, 0x45, 0x50, 0x45, 0x41, 0x54, 0x45, 0x52]⟩

/-- RD_MAX of 95_test_vectors.md; the name is "ABCDEFGHIJKL". -/
def rdMax : RD :=
  ⟨43000000, 43000000, 2541, 670, 255, 15, 14, 13, 12, 3, 0,
    [0x41, 0x42, 0x43, 0x44, 0x45, 0x46, 0x47, 0x48, 0x49, 0x4A, 0x4B, 0x4C]⟩

/-- An RD of which a mask supplies nothing or the power alone. -/
def rdPower (p : Byte) : RD := ⟨0, 0, 0, 0, p, 0, 0, 0, 0, 0, 0, []⟩

/-! ### What WellFormed refuses -/

theorem test_wf_counts :
    (Instr.sendKeys (List.replicate 255 0)).wellFormed = true ∧ (Instr.sendKeys (List.replicate 256 0)).wellFormed = false ∧
    (Instr.checksum (List.replicate 256 0)).wellFormed = false ∧
    (Instr.groupEncode (List.replicate 256 0)).wellFormed = false ∧
    (Instr.groupFromLetters (List.replicate 256 0x41)).wellFormed = false ∧
    (Instr.groupToLetters (List.replicate 256 1)).wellFormed = false ∧
    (Instr.importAll (List.replicate 256 (1, rdS1))).wellFormed = false := by decide +kernel

theorem test_wf_names :
    (Instr.put 1 { rdS1 with name := List.replicate 256 0x41 }).wellFormed = false ∧
    (Instr.writeNew 1 0 { rdS1 with name := List.replicate 256 0x41 }).wellFormed = false ∧
    (Instr.update 1 0 { rdS1 with name := List.replicate 256 0x41 }).wellFormed = false ∧
    (Instr.recordEncode { rdS1 with name := List.replicate 256 0x41 }).wellFormed = false ∧
    (Instr.importAll [(1, { rdS1 with name := List.replicate 256 0x41 })]).wellFormed = false ∧
    (Instr.put 1 { rdS1 with name := List.replicate 255 0x41 }).wellFormed = true := by decide +kernel

theorem test_wf_records :
    (Instr.recordDecode (List.replicate 31 0)).wellFormed = false ∧ (Instr.isEmpty (List.replicate 33 0)).wellFormed = false ∧
    (Instr.recordDecode (List.replicate 32 0)).wellFormed = true := by decide +kernel

theorem test_wf_wire :
    (Instr.wReadCh 0).wellFormed = false ∧ (Instr.wReadCh 199).wellFormed = false ∧ (Instr.wReadCh 1).wellFormed = true ∧
    (Instr.wWriteCh 0 s1 0x99).wellFormed = false ∧ (Instr.wWriteCh 5 s1 0x98).wellFormed = false ∧
    (Instr.wWriteCh 5 (s1.take 31) 0x99).wellFormed = false ∧ (Instr.wWriteCh 198 s1 0x99).wellFormed = true ∧
    (Instr.wKeyDown 127).wellFormed = false ∧ (Instr.wKeyDown 126).wellFormed = true := by decide +kernel

/-! ### Decoding, each word written out from R91's and R111's tables -/

theorem test_decode_wire :
    decode [0x30, 0x07] = .ok (.wReadCh 7) ∧ decode ([0x31, 0x05] ++ s1 ++ [0x99]) = .ok (.wWriteCh 5 s1 0x99) ∧
    decode [0x32] = .ok .wBattery ∧ decode [0x45] = .ok .wDisable ∧ decode [0x46] = .ok .wEnable ∧
    decode [0x47] = .ok .wFlashOn ∧ decode [0x48] = .ok .wFlashOff ∧ decode [0x49] = .ok .wReset ∧
    decode [0x4A] = .ok .wRemoteStart ∧ decode [0x4B] = .ok .wRemoteEnd ∧ decode [0x80] = .ok (.wKeyDown 0) ∧
    decode [0xFE] = .ok (.wKeyDown 126) ∧ decode [0xFF] = .ok .wKeyUp := by decide +kernel

theorem test_decode_store :
    decode [0x01, 0x07] = .ok (.get 7) ∧ decode ([0x02, 0x05] ++ rdS1Bytes) = .ok (.put 5 rdS1) ∧
    decode [0x03, 0xC6] = .ok (.erase 198) ∧
    decode ([0x04, 0x03, 0x00, 0x01] ++ rdMaxBytes) = .ok (.writeNew 3 0x0100 rdMax) ∧
    decode ([0x05, 0x07, 0x10, 0x00] ++ rdRawBytes) = .ok (.update 7 0x0010 rdRaw) ∧ decode [0x06] = .ok .exportAll ∧
    decode ([0x07, 0x03, 0x01] ++ rdS1Bytes ++ [0x32] ++ rdRawBytes ++ [0xC6] ++ rdMaxBytes) =
      .ok (.importAll [(1, rdS1), (50, rdRaw), (198, rdMax)]) := by decide +kernel

theorem test_decode_session :
    decode [0x08, 0x02, 0x0A, 0x03] = .ok (.sendKeys [10, 3]) ∧ decode [0x09] = .ok .flashOn ∧ decode [0x0A] = .ok .flashOff ∧
    decode [0x0B] = .ok .resetRadio ∧ decode [0x0C] = .ok .readBattery ∧ decode [0x0F] = .ok .openTransport := by
  decide +kernel

theorem test_decode_codec :
    decode [0x10, 0x03, 0x01, 0x02, 0x03] = .ok (.checksum [1, 2, 3]) ∧ decode [0x11, 0x21, 0x43] = .ok (.groupDecode 0x21 0x43) ∧
    decode [0x12, 0x04, 0x01, 0x02, 0x03, 0x04] = .ok (.groupEncode [1, 2, 3, 4]) ∧
    decode [0x13, 0x04, 0x6F, 0x4E, 0x6D, 0x6C] = .ok (.groupFromLetters [0x6F, 0x4E, 0x6D, 0x6C]) ∧
    decode [0x14, 0x01, 0x00] = .ok (.groupToLetters [0]) ∧ decode (0x15 :: raw) = .ok (.recordDecode raw) ∧
    decode (0x16 :: rdMaxBytes) = .ok (.recordEncode rdMax) ∧ decode (0x17 :: maxBytes) = .ok (.isEmpty maxBytes) := by
  decide +kernel

/-- R92, R94, R115, R116: what no table row gives is refused by name. -/
theorem test_decode_refuses :
    decode [] = .error .emptyFrame ∧ decode [0x0D] = .error (.undefinedRequest 0x0D) ∧
    decode [0x33] = .error (.undefinedOpcode 0x33) ∧ decode [0x01] = .error .badLength ∧
    decode [0x10, 0x03, 0x01, 0x02] = .error .badLength ∧ decode [0x45, 0x00] = .error .badLength ∧
    decodeRequest [0x45] = .error (.undefinedRequest 0x45) ∧ decodeWire [0x01, 0x07] = .error (.undefinedOpcode 0x01) := by
  decide +kernel

/-- The names, as a frame would have them, of the vectors' descriptors. -/
theorem test_encode_descriptors :
    encodeRD rdS1 = rdS1Bytes ∧ encodeRD rdRaw = rdRawBytes ∧ encodeRD rdMax = rdMaxBytes := by decide +kernel

theorem test_decodeTableWord :
    decodeTableWord 16 0x0701 = some (.get 7) ∧ decodeTableWord 8 0xFF = some .wKeyUp ∧
    decodeTableWord 8 0x0D = none := by decide +kernel

/-! ### The pure requests (95_test_vectors.md parts 1, 2 A to D) -/

theorem test_checksum :
    answers (.checksum []) State.reset = some [[0x00, 0x00]] ∧
    answers (.checksum (List.replicate 32 0xFF)) State.reset = some [[0x00, 0xE0]] ∧
    checksum s1 = 0x99 ∧ checksum defBytes = 0x39 ∧ checksum raw = 0x90 ∧ checksum upd = 0x93 ∧
    checksum rawn = 0x84 ∧ checksum maxBytes = 0x7D ∧ checksum minBytes = 0xA1 := by decide +kernel

theorem test_groupDecode : answers (.groupDecode 0x01 0x2F) State.reset = some [[0x00, 0x01, 0x00, 0x0F, 0x02]] := by
  decide +kernel

theorem test_groupEncode :
    answers (.groupEncode [1, 0, 15, 2]) State.reset = some [[0x00, 0x01, 0x2F]] ∧
    answers (.groupEncode [5]) State.reset = some [[0x00, 0x05, 0x00]] ∧
    answers (.groupEncode [16]) State.reset = some [[0x85, 0x07, 0x00, 0x00, 0x00, 0x00, 0x00, 0x00]] := by decide +kernel

theorem test_groupFromLetters :
    answers (.groupFromLetters [0x61, 0x30, 0x6F, 0x42]) State.reset = some [[0x00, 0x04, 0x01, 0x00, 0x0F, 0x02]] ∧
    answers (.groupFromLetters [0x31]) State.reset = some [[0x85, 0x07, 0x00, 0x00, 0x00, 0x00, 0x00, 0x00]] := by
  decide +kernel

theorem test_groupToLetters :
    answers (.groupToLetters [1, 0, 15, 2]) State.reset = some [[0x00, 0x04, 0x41, 0x30, 0x4F, 0x42]] ∧
    answers (.groupToLetters [16, 255]) State.reset = some [[0x00, 0x02, 0x30, 0x30]] := by decide +kernel

theorem test_recordDecode :
    answers (.recordDecode raw) State.reset = some [0x00 :: rdRawBytes] ∧
    answers (.recordDecode maxBytes) State.reset = some [0x00 :: rdMaxBytes] := by decide +kernel

theorem test_recordEncode :
    answers (.recordEncode rdRaw) State.reset = some [0x00 :: rawn] ∧
    answers (.recordEncode { rdMax with name := rdMax.name ++ [0x4D] }) State.reset = some [0x01 :: maxBytes] := by
  decide +kernel

theorem test_recordEncode_faults :
    answers (.recordEncode { rdS1 with rx := 0, rxt := 669 }) State.reset =
      some [[0x85, 0x02, 0x00, 0x00, 0x00, 0x00, 0x00, 0x00]] ∧
    answers (.recordEncode { rdS1 with txt := 1 }) State.reset =
      some [[0x85, 0x05, 0x00, 0x00, 0x00, 0x00, 0x00, 0x00]] := by decide +kernel

theorem test_isEmpty :
    answers (.isEmpty (List.replicate 32 0xFF)) State.reset = some [[0x00, 0x01]] ∧
    answers (.isEmpty (List.replicate 31 0xFF ++ [0xFE])) State.reset = some [[0x00, 0x00]] := by decide +kernel

/-! ### Wire commands (43_protocol.md) -/

theorem test_wire_acknowledged :
    seen .wDisable (busy [[0x45]]) = some ([], [.tx 0x45, .rx 1 [0x45]]) ∧
    seen .wEnable (busy [[0x46]]) = some ([], [.tx 0x46, .rx 1 [0x46]]) ∧
    seen .wRemoteStart (busy [[0x4A]]) = some ([], [.tx 0x4A, .rx 1 [0x4A]]) ∧
    seen .wRemoteEnd (busy [[0x4B]]) = some ([], [.tx 0x4B, .rx 1 [0x4B]]) := by decide +kernel

theorem test_wire_unacknowledged :
    seen .wFlashOn (busy []) = some ([], [.tx 0x47]) ∧ seen .wFlashOff (busy []) = some ([], [.tx 0x48]) ∧
    seen .wReset (busy []) = some ([], [.tx 0x49]) ∧ seen (.wKeyDown 10) (busy []) = some ([], [.tx 0x8A]) ∧
    seen .wKeyUp (busy []) = some ([], [.tx 0xFF]) := by decide +kernel

theorem test_wReadCh :
    seen (.wReadCh 7) (busy [raw ++ [0x90]]) = some ([], [.tx 0x30, .tx 7, .rx 33 (raw ++ [0x90])]) ∧
    (nextState (exec (.wReadCh 7) (busy [raw ++ [0x90]]))).map (fun t => (t.recBuf.bytes, t.ckReg, t.addrReg)) =
      some (raw, 0x90, 7) := by decide +kernel

theorem test_wWriteCh :
    seen (.wWriteCh 5 s1 0x99) (busy [[0x31]]) =
      some ([], [.tx 0x31, .tx 5] ++ s1.map .tx ++ [.tx 0x99, .rx 1 [0x31]]) := by decide +kernel

/-! ### Channel store requests (95_test_vectors.md part 2 E, F) -/

theorem test_get :
    seen (.get 7) (idle (readAnswers raw)) = some ([0x00 :: 0x00 :: rdRawBytes],
      [.tx 0x45, .rx 1 [0x45], .tx 0x30, .tx 7, .rx 33 (raw ++ [0x90]), .tx 0x46, .rx 1 [0x46]]) ∧
    answers (.get 9) (idle [[0x45], emptySlot ++ [0xE0], [0x46]]) = some [[0x00, 0x01]] := by decide +kernel

theorem test_get_faults :
    answers (.get 9) (idle [[0x45], emptySlot ++ [0x00]]) = some [[0x84, 0x00, 0x01, 0xE0, 0x01, 0x00, 0x09, 0x30]] ∧
    answers (.get 9) (idle [[0x45], []]) = some [[0x83, 0x00, 0x00, 0x00, 0x00, 0x00, 0x09, 0x30]] ∧
    answers (.get 9) (idle [[0x45], raw.take 10]) = some [[0x87, 0x0A, 0x00, 0x00, 0x00, 0x00, 0x09, 0x30]] ∧
    answers (.get 9) (idle [[0x46]]) = some [[0x82, 0x00, 0x01, 0x45, 0x01, 0x46, 0x09, 0x45]] ∧
    answers (.get 7) (idle [[0x45], raw ++ [0x90], []]) = some [[0x82, 0x00, 0x01, 0x46, 0x00, 0x00, 0x07, 0x46]] ∧
    answers (.get 199) (idle []) = some [[0x85, 0x01, 0x00, 0x00, 0x00, 0x00, 0xC7, 0x00]] := by decide +kernel

theorem test_put :
    seen (.put 5 rdS1) (idle writeAnswers) = some ([[0x00]], [.tx 0x45, .rx 1 [0x45], .tx 0x31, .tx 5] ++ s1.map .tx ++
      [.tx 0x99, .rx 1 [0x31], .tx 0x46, .rx 1 [0x46]]) ∧
    answers (.put 5 rdS1) (idle [[0x45], [0x30]]) = some [[0x82, 0x00, 0x01, 0x31, 0x01, 0x30, 0x05, 0x31]] := by
  decide +kernel

theorem test_erase :
    seen (.erase 198) (idle writeAnswers) = some ([[0x00]], [.tx 0x45, .rx 1 [0x45], .tx 0x31, .tx 0xC6] ++
      List.replicate 32 (.tx 0xFF) ++ [.tx 0xE0, .rx 1 [0x31], .tx 0x46, .rx 1 [0x46]]) := by decide +kernel

theorem test_writeNew :
    seen (.writeNew 3 0 (rdPower 0)) (idle writeAnswers) = some ([[0x00]],
      [.tx 0x45, .rx 1 [0x45], .tx 0x31, .tx 3] ++ defBytes.map .tx ++
      [.tx 0x39, .rx 1 [0x31], .tx 0x46, .rx 1 [0x46]]) := by decide +kernel

theorem test_update :
    (nextState (exec (.update 7 0x0010 (rdPower 20)) (idle (readAnswers raw ++ writeAnswers)))).map
        (fun t => (t.responses, t.recBuf.bytes, t.ckReg, t.txCount, t.rxCount)) = some ([[0x00]], upd, 0x93, 41, 38) ∧
    answers (.update 7 0x0010 (rdPower 20)) (idle (readAnswers emptySlot)) =
      some [[0x88, 0x00, 0x00, 0x00, 0x00, 0x00, 0x07, 0x00]] := by decide +kernel

/-- EXPORT_ALL's first bracket unanswered: the fault names channel 1 (R33, R247). -/
theorem test_exportAll :
    answers .exportAll (idle [[]]) = some [[0x82, 0x00, 0x01, 0x45, 0x00, 0x00, 0x01, 0x45]] := by decide +kernel

theorem test_importAll :
    answers (.importAll [(5, rdS1), (5, rdRaw)]) (idle []) = some [[0x85, 0x0A, 0x00, 0x00, 0x00, 0x00, 0x05, 0x00]] ∧
    seen (.importAll [(1, rdS1), (50, { rdS1 with modulation := 4 })]) (idle []) =
      some ([[0x85, 0x08, 0x00, 0x00, 0x00, 0x00, 0x32, 0x00]], []) := by decide +kernel

/-! ### Session, auxiliary and transport requests (95_test_vectors.md part 2 G) -/

theorem test_sendKeys :
    seen (.sendKeys [10, 3]) (idle [[0x4A], [0x4B]]) = some ([[0x00]],
      [.tx 0x4A, .rx 1 [0x4A], .tx 0x8A, .dwell, .tx 0xFF, .dwell, .tx 0x83, .dwell, .tx 0xFF, .dwell,
        .tx 0x4B, .rx 1 [0x4B]]) ∧
    seen (.sendKeys [127]) (idle []) = some ([[0x85, 0x0B, 0x00, 0x00, 0x00, 0x00, 0x00, 0x00]], []) := by decide +kernel

theorem test_sendKeys_end_mismatch :
    (nextState (exec (.sendKeys [1]) (idle [[0x4A], [0x4A]]))).map (fun t => (t.responses, t.flags)) =
      some ([[0x82, 0x00, 0x01, 0x4B, 0x01, 0x4A, 0x00, 0x4B]], 0x02) := by decide +kernel

theorem test_flash :
    seen .flashOn (idle []) = some ([[0x00]], [.tx 0x47]) ∧ seen .flashOff (idle []) = some ([[0x00]], [.tx 0x48]) ∧
    answers .flashOn terminated = some [[0x89, 0x03, 0x00, 0x00, 0x00, 0x00, 0x00, 0x00]] := by decide +kernel

theorem test_resetRadio :
    (nextState (exec .resetRadio (idle []))).map (fun t => (t.mode, t.transcript)) = some (.terminated, [.tx 0x49]) := by
  decide +kernel

theorem test_readBattery :
    (nextState (exec .readBattery (idle []))).map (fun t => (t.mode, t.responses, t.flags, t.transcript)) =
      some (.refused, [[0xFE]], 0x10, []) := by decide +kernel

theorem test_open :
    (nextState (exec .openTransport { State.reset with openings := [true] })).map (fun t => (t.mode, t.responses)) =
      some (.idle, [[0x00]]) ∧
    answers .openTransport { State.reset with openings := [false] } =
      some [[0x81, 0x00, 0x00, 0x00, 0x00, 0x00, 0x00, 0x00]] := by decide +kernel

/-! ### The step function -/

/-- A frame no table has, at the port after reset (R92). -/
theorem test_step_undefined :
    (nextState (step { State.reset with port := [[0x0D]] })).map State.responses =
      some [[0x89, 0x01, 0x00, 0x00, 0x00, 0x00, 0x00, 0x00]] := by decide +kernel

/-- A frame presented to a FAULTED SEQ is never accepted (R240): after block reset it is gone. One that
waited in BUSY is still at the port (log entry 5). -/
theorem test_blockReset_port :
    (nextState (step { State.reset with mode := .faulted, port := [[0x06]], host := [.blockReset] })).map State.port =
      some [] ∧
    (nextState (step { State.reset with mode := .busy, port := [[0x06]], host := [.blockReset] })).map State.port =
      some [[0x06]] := by decide +kernel

/-- Every internal assignment is a micro-step of its own (R42): after the two of acceptance, the test of
MODE, MODE to BUSY, the channel test and three of W_DISABLE, the next one writes RADIO_DISABLED. -/
theorem test_step_between_assignments :
    (nextState (exec (.get 7) { idle (readAnswers raw) with budget := some 8 })).map
        (fun t => (t.mode, t.flags, t.stepPtr.head?)) = some (.busy, 0x00, some (.radioDisabled true)) ∧
    (nextState (exec (.importAll [(5, rdS1)]) { idle [] with ws := [(1, recordOf rdS1)], budget := some 4 })).map
        (fun t => (t.ws, t.stepPtr.head?)) = some ([(1, recordOf rdS1)], some (.clearEntry 1)) := by decide +kernel

/-- The opcode table's words are fetched and run from reset. -/
theorem test_withFetchWord :
    (nextState (step (State.reset.withFetchWord 8 0x10))).map State.responses = some [[0x00, 0x00]] ∧
    (nextState (step (State.reset.withFetchWord 16 0x0101))).map State.responses =
      some [[0x89, 0x02, 0x00, 0x00, 0x00, 0x00, 0x00, 0x00]] ∧
    (nextState (step (State.reset.withFetchWord 8 0x47))).map State.transcript = some [.tx 0x47] := by decide +kernel

/-- READ_BATTERY refused leaves nothing of the request (R334, log entry 14). -/
theorem test_readBattery_awaits : (nextState (exec .readBattery (idle []))).map State.stepPtr = some [] := by
  decide +kernel

/-! ### Witnesses: the hypotheses of each statement can be met, at the edges of their ranges -/

theorem witness_DecodeEncodeRoundTrip :
    (Instr.wKeyDown 126).wellFormed = true ∧ (Instr.wReadCh 198).wellFormed = true ∧
    (Instr.sendKeys (List.replicate 255 0)).wellFormed = true := by decide +kernel

theorem witness_EncodeInvertsDecode : decode ([0x02, 0x05] ++ rdS1Bytes) = .ok (.put 5 rdS1) := by decide +kernel

theorem witness_LengthMismatchIsNoRequest :
    (Instr.put 5 rdS1).wellFormed = true ∧ isWire (.put 5 rdS1) = false ∧ 0 < 1 ∧ 21 < (encode (.put 5 rdS1)).length ∧
    [(0 : Byte)] ≠ [] := by decide +kernel

theorem witness_StepRunsThePresentedRequest :
    (Instr.get 198).wellFormed = true ∧ decodeRequest [0x01, 0xC6] = .ok (.get 198) ∧ (idle []).host = [] ∧
    accepts { idle [] with port := [[0x01, 0xC6]] } = true ∧
    ({ idle [] with port := [[0x01, 0xC6]] } : State).port = [0x01, 0xC6] :: [] := by decide +kernel

/-- A request in progress whose next three micro-steps are W_FLASH_ON and the request's end. -/
def midFlash : State :=
  { State.reset with mode := .busy, stepPtr := wireOps .wFlashOn ++ finishIdle, budget := some (wireOps .wFlashOn).length }

theorem witness_StepRunsTheWireCommandAtStep :
    isWire .wFlashOn = true ∧ midFlash.mode = .busy ∧ midFlash.host = [] ∧
    midFlash.stepPtr = wireOps .wFlashOn ++ finishIdle ∧ midFlash.budget = some (wireOps .wFlashOn).length := by
  decide +kernel

theorem witness_UndefinedRequestRaises :
    ∀ req ∈ [(0x00 : Byte), 0x0D, 0x0E, 0x18, 0xFF], (req = 0x00 ∨ req = 0x0D ∨ req = 0x0E ∨ 0x18 ≤ req.toNat) ∧
      ({ State.reset with port := [[req]] } : State).host = [] ∧ ({ State.reset with port := [[req]] } : State).budget = none ∧
      accepts { State.reset with port := [[req]] } = true ∧
      ({ State.reset with port := [[req]] } : State).port = (req :: []) :: [] := by decide +kernel

theorem witness_WrongLengthRaises :
    ∀ f ∈ [([] : List Byte), [0x01], [0x06, 0x00]], (f = [] ∨ decodeRequest f = .error .badLength) ∧
      ({ State.reset with port := [f] } : State).host = [] ∧ ({ State.reset with port := [f] } : State).budget = none ∧
      accepts { State.reset with port := [f] } = true ∧
      ({ State.reset with port := [f] } : State).port = f :: [] := by decide +kernel

theorem witness_PresentedFramesWait :
    ∀ s ∈ [{ State.reset with mode := .busy, stepPtr := finishIdle, port := [[0x06]] },
        { State.reset with mode := .faulted, port := [[0x06]] }],
      s.host = [] ∧ accepts s = false ∧ (nextState (step s)).isSome = true ∧ s.port ≠ [] := by decide +kernel

theorem witness_HaltedUntilBlockReset :
    ∀ s ∈ [{ State.reset with mode := .faulted, host := [.blockReset] }, { State.reset with mode := .refused, port := [[0x06]] },
        { State.reset with mode := .faulted, host := [.proceed none] }],
      halted s = true ∧ (nextState (step s)).isSome = true := by decide +kernel

theorem witness_BlockResetRestores :
    ∀ m ∈ [Mode.faulted, .refused, .busy, .closed],
      ({ State.reset with mode := m, txCount := 3, port := [[0x06]], host := [.blockReset] } : State).host =
        .blockReset :: [] := by decide

theorem witness_StatusPortReads :
    ∀ no ∈ [(0x00 : Byte), 0x01, 0x02, 0x03, 0x04, 0x05, 0x06, 0x07, 0x08, 0x09, 0x0A, 0x0B, 0xFF],
      ({ State.reset with host := [.readStatus no] } : State).host = .readStatus no :: [] := by decide +kernel

theorem witness_StatusPortReads_present :
    ({ State.reset with host := [.present [0x06]] } : State).host = .present [0x06] :: [] := rfl

theorem witness_FaultEntryLatches :
    (nextState (perform (.validateChannel 199) (busy []))).map State.mode = some .faulted ∧
    (nextState (perform (.validateFields 1 allFields { rdS1 with bandwidth := 2 }) (busy []))).map State.mode =
      some .faulted := by decide +kernel

theorem witness_PausingChangesNothing :
    ∀ k ∈ [0, 1, 3], ({ midFlash with budget := some k } : State).budget = some k ∧
      (nextState (advance { midFlash with budget := some k })).map halted = some false := by decide +kernel

/-- The host presents a frame, or reads a status register, after one of `midFlash`'s micro-steps. -/
theorem witness_PausingChangesNothing_between :
    ∀ a ∈ [HostAction.present [0x06], .readStatus 0x09],
      ∀ s ∈ [{ midFlash with budget := none, host := .proceed (some 1) :: a :: .proceed none :: [] }],
      s.host = .proceed (some 1) :: a :: .proceed none :: [] ∧ s.stepPtr ≠ [] ∧ halted s = false ∧
      (nextState (step s)).map (fun t => (halted t, t.stepPtr.isEmpty)) = some (false, false) := by decide +kernel

theorem witness_AckMismatchFaults :
    ∀ p ∈ [(Instr.wDisable, 0x45#8), (.wEnable, 0x46#8), (.wRemoteStart, 0x4A#8), (.wRemoteEnd, 0x4B#8)],
      (busy [[]]).mode = .busy ∧ (peerBytes 1 (busy [[]])).head? ≠ some p.2 ∧ peerBytes 1 (busy [[]]) = [] ∧
      (peerBytes 1 (busy [[0x00]])).head? ≠ some p.2 ∧ peerBytes 1 (busy [[0x00]]) = [0x00] := by decide +kernel

theorem witness_WriteAckMismatchFaults :
    ∀ n ∈ [(1 : Byte), 198], channelExists n = true ∧ s1.length = 32 ∧ (busy [[0x30]]).mode = .busy ∧
      (peerBytes 1 (busy [[0x30]])).head? ≠ some 0x31#8 := by decide +kernel

theorem witness_ReadResponseIsChecked_bad :
    ∀ a ∈ [([] : List Byte), [0x00], raw, raw ++ [0x91]], channelExists 198 = true ∧ (busy [a]).mode = .busy ∧
      peerBytes 33 (busy [a]) = a ∧ (a.length < 33 ∨ checksum (a.take 32) ≠ byteAt a 32) := by decide +kernel

theorem witness_ReadResponseIsChecked_good :
    channelExists 1 = true ∧ (busy [raw ++ [0x90]]).mode = .busy ∧ (peerBytes 33 (busy [raw ++ [0x90]])).length = 33 ∧
    checksum ((peerBytes 33 (busy [raw ++ [0x90]])).take 32) = byteAt (peerBytes 33 (busy [raw ++ [0x90]])) 32 := by
  decide +kernel

theorem witness_AcknowledgedCommandsComplete :
    ∀ e ∈ [0x45#8, 0x46#8, 0x4A#8, 0x4B#8], (busy [[e]]).mode = .busy ∧ peerBytes 1 (busy [[e]]) = [e] ∧
      peerBytes 1 (busy [[e, 0x00]]) = [e] := by decide +kernel

theorem witness_FireAndForgetCommandsComplete :
    (busy []).mode = .busy ∧ (0#7 : BitVec 7) ≠ 127#7 ∧ (126#7 : BitVec 7) ≠ 127#7 := by decide +kernel

theorem witness_WriteChannelCompletes :
    ∀ n ∈ [(1 : Byte), 198], channelExists n = true ∧ s1.length = 32 ∧ (busy [[0x31]]).mode = .busy ∧
      peerBytes 1 (busy [[0x31]]) = [0x31#8] ∧ peerBytes 1 (busy [[0x31, 0x46]]) = [0x31#8] := by decide +kernel

theorem witness_WireCommandsStopOutsideTheirDomain :
    (isWire .wEnable = true ∧ Instr.wEnable ≠ .wBattery ∧ (idle []).mode ≠ .busy) ∧
    ((busy []).mode = .busy ∧ channelExists 0 = false ∧ channelExists 199 = false ∧ s1.length = 32) ∧
    ((s1.take 31).length ≠ 32 ∧ (0x98 : Byte) ≠ checksum s1) := by decide +kernel

theorem witness_AcceptanceByMode :
    (Ready State.reset ∧ isTransport (.get 0) = true ∧ State.reset.mode = .closed) ∧
    (Ready terminated ∧ isTransport .readBattery = true ∧ terminated.mode = .terminated) ∧
    (Ready (idle []) ∧ (idle []).mode = .idle) :=
  ⟨⟨⟨rfl, rfl⟩, rfl, rfl⟩, ⟨⟨rfl, rfl⟩, rfl, rfl⟩, ⟨⟨rfl, rfl⟩, rfl⟩⟩

/-- The state of most of the requests' statements is ready. -/
theorem witness_ready (a : List (List Byte)) : Ready (idle a) ∧ (idle a).mode = .idle := ⟨⟨rfl, rfl⟩, rfl⟩

theorem importValid_one (n : Byte) (rd : RD) (h : channelOk n = true) (hf : fieldFailure allFields rd = none) :
    ImportValid [(n, rd)] := by
  constructor
  · simpa using h
  · simpa using hf
  · simp

theorem importValid_nil : ImportValid [] := ⟨by simp, by simp, by simp⟩

theorem witness_ChannelNumberIsValidated :
    (Ready (idle []) ∧ (idle []).mode = .idle) ∧ ((0 : Byte).toNat = 0 ∨ 198 < (0 : Byte).toNat) ∧
    ((199 : Byte).toNat = 0 ∨ 198 < (199 : Byte).toNat) ∧ workingSetWf (idle []).ws = true ∧ ImportValid [(198, rdMax)] ∧
    ImportValid [] :=
  ⟨witness_ready [], by decide, by decide, rfl, importValid_one 198 rdMax (by decide) (by decide +kernel),
    importValid_nil⟩

theorem witness_FailingFieldRaises :
    (Ready (idle []) ∧ (idle []).mode = .idle) ∧ channelOk 1 = true ∧ channelOk 198 = true ∧
    fieldFailure 0x0001 { rdS1 with rx := 1799999 } = some 2 ∧ fieldFailure allFields { rdS1 with bandwidth := 2 } = some 9 ∧
    (workingSetWf (idle []).ws = true ∧ ImportValid [(5, rdS1)] ∧ (198 : Byte) ∉ [((5 : Byte), rdS1)].map Prod.fst) ∧
    (∀ s ∈ [State.reset, idle [], terminated], accepts s = true ∧ s.budget = none) :=
  ⟨witness_ready [], by decide, by decide, by decide +kernel, by decide +kernel,
    ⟨rfl, importValid_one 5 rdS1 (by decide) (by decide +kernel), by decide⟩, by decide +kernel⟩

theorem witness_DuplicateChannelRaises :
    (Ready (idle []) ∧ (idle []).mode = .idle) ∧ workingSetWf (idle []).ws = true ∧ ImportValid [(5, rdS1)] ∧
    5 ∈ [((5 : Byte), rdS1)].map Prod.fst :=
  ⟨witness_ready [], rfl, importValid_one 5 rdS1 (by decide) (by decide +kernel), by decide⟩

theorem witness_ValidationFaultMovesNoByte :
    accepts (idle []) = true ∧ (idle []).errCode ≠ .validation ∧
    (nextState (exec (.get 0) (idle []))).map State.errCode = some .validation := by decide +kernel

/-- Answers listed in State that are no longer than the reads are what PEER answers. -/
theorem answered_idle (reads : List (Nat × List Byte)) (h : ∀ r ∈ reads, r.2.length ≤ r.1) :
    Answered reads (idle (reads.map Prod.snd)) :=
  answered_of_listed reads [] _ (List.append_nil _).symm h

theorem answered_read (d : List Byte) (hd : d.length = 32) : Answered (readReads d) (idle (readAnswers d)) :=
  answered_idle (readReads d) (by simp [readReads, hd])

theorem answered_write : Answered writeReads (idle writeAnswers) := answered_idle writeReads (by decide)

theorem witness_GetReturnsTheRecord :
    (Ready (idle (readAnswers raw)) ∧ (idle (readAnswers raw)).mode = .idle) ∧ channelOk 1 = true ∧ channelOk 198 = true ∧
    raw.length = 32 ∧ (∃ b ∈ raw, b ≠ 0xFF#8) ∧ Answered (readReads raw) (idle (readAnswers raw)) :=
  ⟨witness_ready _, by decide, by decide, by decide, by decide, answered_read raw rfl⟩

/-- A listed answer longer than the read it answers is cut to it. -/
theorem witness_GetReturnsTheRecord_cut :
    Answered (readReads raw) (idle [[0x45, 0x46], raw ++ [0x90, 0x00], [0x46, 0x46]]) :=
  ⟨by decide +kernel, by decide +kernel, by decide +kernel, trivial⟩

theorem witness_GetReportsAnEmptySlot :
    (Ready (idle (readAnswers emptySlot)) ∧ (idle (readAnswers emptySlot)).mode = .idle) ∧ channelOk 198 = true ∧
    Answered (readReads (List.replicate 32 0xFF#8)) (idle (readAnswers emptySlot)) :=
  ⟨witness_ready _, by decide, answered_read emptySlot rfl⟩

theorem witness_PutWritesTheRecord :
    (Ready (idle writeAnswers) ∧ (idle writeAnswers).mode = .idle) ∧ channelOk 1 = true ∧
    fieldFailure allFields rdMax = none ∧ Answered writeReads (idle writeAnswers) :=
  ⟨witness_ready _, by decide, by decide +kernel, answered_write⟩

theorem witness_EraseWritesTheErasePattern :
    (Ready (idle writeAnswers) ∧ (idle writeAnswers).mode = .idle) ∧ channelOk 198 = true ∧
    Answered writeReads (idle writeAnswers) := ⟨witness_ready _, by decide, answered_write⟩

theorem witness_WriteNewMergesIntoTheDefaults :
    (Ready (idle writeAnswers) ∧ (idle writeAnswers).mode = .idle) ∧ channelOk 1 = true ∧
    fieldFailure 0x0000 (rdPower 0) = none ∧ fieldFailure 0xFFFF rdMax = none ∧
    (rdMax.modulation.toNat ≤ 3 ∧ rdMax.bandwidth.toNat ≤ 1 ∧ (0x0040 : Word16).getLsbD 7 = false ∧
      (0x0080 : Word16).getLsbD 6 = false) ∧ Answered writeReads (idle writeAnswers) :=
  ⟨witness_ready _, by decide, by decide +kernel, by decide +kernel, by decide, answered_write⟩

theorem witness_UpdateMergesIntoTheRecordRead :
    (Ready (idle (readAnswers raw ++ writeAnswers)) ∧ (idle (readAnswers raw ++ writeAnswers)).mode = .idle) ∧
    channelOk 198 = true ∧ fieldFailure 0x0010 (rdPower 20) = none ∧ raw.length = 32 ∧ (∃ b ∈ raw, b ≠ 0xFF#8) ∧
    Answered (readReads raw ++ writeReads) (idle (readAnswers raw ++ writeAnswers)) :=
  ⟨witness_ready _, by decide, by decide +kernel, by decide, by decide,
    answered_idle (readReads raw ++ writeReads) (by decide +kernel)⟩

theorem witness_UpdateOfAnEmptySlotFaults :
    (Ready (idle (readAnswers emptySlot)) ∧ (idle (readAnswers emptySlot)).mode = .idle) ∧ channelOk 1 = true ∧
    fieldFailure 0x0010 (rdPower 20) = none ∧
    Answered (readReads (List.replicate 32 0xFF#8)) (idle (readAnswers emptySlot)) :=
  ⟨witness_ready _, by decide, by decide +kernel, answered_read emptySlot rfl⟩

/-- A radio whose slot 198 alone is programmed. -/
def oneSlot (n : Byte) : List Byte := if n = 198 then raw else emptySlot

theorem oneSlot_length (n : Byte) : (oneSlot n).length = 32 := by
  unfold oneSlot
  split <;> rfl

theorem witness_ExportAllDeliversEveryProgrammedChannel :
    (Ready (idle (channels.flatMap fun n => readAnswers (oneSlot n))) ∧
      (idle (channels.flatMap fun n => readAnswers (oneSlot n))).mode = .idle) ∧ (∀ n, (oneSlot n).length = 32) ∧
    Answered (channels.flatMap fun n => readReads (oneSlot n))
      (idle (channels.flatMap fun n => readAnswers (oneSlot n))) := by
  refine ⟨witness_ready _, oneSlot_length, answered_of_listed _ [] _ ?_ ?_⟩
  · simp [idle, List.map_flatMap, readReads, readAnswers]
  · intro r hr
    obtain ⟨n, -, h⟩ := List.mem_flatMap.1 hr
    simp only [readReads, List.mem_cons, List.not_mem_nil, or_false] at h
    rcases h with rfl | rfl | rfl <;> simp [oneSlot_length]

theorem witness_ImportAllWritesEverySlot :
    (Ready (idle (channels.flatMap fun _ => writeAnswers)) ∧ (idle (channels.flatMap fun _ => writeAnswers)).mode = .idle) ∧
    workingSetWf (idle (channels.flatMap fun _ => writeAnswers)).ws = true ∧ ImportValid [(198, rdMax)] ∧
    (1 : Byte) ∉ [((198 : Byte), rdMax)].map Prod.fst ∧
    Answered (channels.flatMap fun _ => writeReads) (idle (channels.flatMap fun _ => writeAnswers)) := by
  refine ⟨witness_ready _, rfl, importValid_one 198 rdMax (by decide) (by decide +kernel), by decide,
    answered_of_listed _ [] _ ?_ ?_⟩
  · simp [idle, List.map_flatMap, writeReads, writeAnswers]
  · intro r hr
    obtain ⟨n, -, h⟩ := List.mem_flatMap.1 hr
    simp only [writeReads, List.mem_cons, List.not_mem_nil, or_false] at h
    rcases h with rfl | rfl | rfl <;> simp

theorem witness_SendKeysDeliversTheSequence :
    (Ready (idle [[0x4A], [0x4B]]) ∧ (idle [[0x4A], [0x4B]]).mode = .idle) ∧ [(0 : Byte), 126] ≠ [] ∧
    (∀ c ∈ [(0 : Byte), 126], c.toNat ≤ 126) ∧ Answered [(1, [0x4A#8]), (1, [0x4B#8])] (idle [[0x4A], [0x4B]]) :=
  ⟨witness_ready _, by decide, by decide, answered_idle [(1, [0x4A#8]), (1, [0x4B#8])] (by decide)⟩

theorem witness_SendKeysWithoutAValidSequence :
    (Ready (idle []) ∧ (idle []).mode = .idle) ∧ ∃ c ∈ [(127 : Byte)], 126 < c.toNat :=
  ⟨witness_ready _, by decide⟩

theorem witness_OneByteRequestsComplete : Ready (idle []) ∧ (idle []).mode = .idle := witness_ready []

theorem witness_ReadBatteryIsRefused : Ready (idle []) ∧ (idle []).mode = .idle := witness_ready []

theorem witness_OpenOpensOrFaults (o : Bool) :
    Ready { State.reset with openings := [o] } ∧ ({ State.reset with openings := [o] } : State).mode = .closed ∧
    openingOk { State.reset with openings := [o] } = o := ⟨⟨rfl, rfl⟩, rfl, rfl⟩

/-- The hypotheses of the statements about CHECKSUM, GROUP_DECODE, GROUP_ENCODE, GROUP_FROM_LETTERS and
GROUP_TO_LETTERS, each clause at its edge. -/
theorem witness_pureRequests :
    (∀ s ∈ [State.reset, idle [], terminated], accepts s = true ∧ s.budget = none) ∧
    (∀ v ∈ [(0 : Byte), 15, 1, 2], v.toNat ≤ 15) ∧ (∃ v ∈ [(16 : Byte)], 15 < v.toNat) ∧ 4 < [(0 : Byte), 0, 0, 0, 0].length ∧
    (∀ c ∈ [(0x41 : Byte), 0x4F, 0x61, 0x6F], (0x41 ≤ c.toNat ∧ c.toNat ≤ 0x4F) ∨ (0x61 ≤ c.toNat ∧ c.toNat ≤ 0x6F) ∨
      c.toNat = 0x30) ∧
    (∃ c ∈ [(0x50 : Byte)], ¬(0x41 ≤ c.toNat ∧ c.toNat ≤ 0x4F) ∧ ¬(0x61 ≤ c.toNat ∧ c.toNat ≤ 0x6F) ∧ c.toNat ≠ 0x30) := by
  decide +kernel

theorem witness_RecordDecodeAnswers : accepts State.reset = true ∧ State.reset.budget = none ∧ raw.length = 32 := by
  decide +kernel

theorem witness_RecordEncodeAnswers :
    accepts State.reset = true ∧ State.reset.budget = none ∧ fieldFailure allFields rdMax = none := by decide +kernel

theorem witness_IsEmptyAnswers :
    accepts State.reset = true ∧ State.reset.budget = none ∧ emptySlot.length = 32 ∧ (∀ b ∈ emptySlot, b = 0xFF#8) ∧
    (List.replicate 31 0xFF#8 ++ [0xFE#8]).length = 32 ∧ (∃ b ∈ List.replicate 31 0xFF#8 ++ [0xFE#8], b ≠ 0xFF#8) := by
  decide +kernel

theorem witness_GroupCodecRoundTrips :
    lettersToNumbers [0x41, 0x30, 0x6F, 0x42] = some [1, 0, 15, 2] ∧ [(0 : Byte), 15, 1, 2].length ≤ 4 ∧
    (∀ v ∈ [(0 : Byte), 15, 1, 2], v.toNat ≤ 15) := by decide +kernel

theorem witness_RecordRoundTrips :
    (rdecode maxBytes).name.length ≤ 12 ∧ (rdecode maxBytes).name.getLast? ≠ some 0x00#8 ∧ raw.length = 32 := by
  decide +kernel

theorem reset_stateInv : StateInv State.reset := by
  refine ⟨by decide, by decide, by decide, by decide, by decide, rfl, rfl, ?_⟩
  intro n r h
  cases h

theorem witness_StepKeepsTheInvariant :
    StateInv State.reset ∧ (nextState (step State.reset)).isSome = true := ⟨reset_stateInv, by decide +kernel⟩

theorem witness_LogsOnlyGrowUntilBlockReset :
    (nextState (step { State.reset with port := [[0x06]] })).isSome = true ∧
    ({ State.reset with port := [[0x06]] } : State).host = [] := by decide +kernel

end Sys2Proof.Tests
end

/-! PROOFS. The transcript and the response stream only grow until block reset (10_state.md R45). A
micro-step adds to them (`perform_untouched`); so do a list of micro-steps, the request in progress carried
on, and a request or wire command taken. The host's other actions, and a frame taken from the port, leave
them. -/

namespace Sys2Proof.Machine

/-- The two logs of `s` are prefixes of those of `t` (R45). -/
structure LogsGrow (s t : State) : Prop where
  transcript : s.transcript <+: t.transcript
  responses : s.responses <+: t.responses

theorem LogsGrow.of_eq {s t : State} (ht : t.transcript = s.transcript) (hr : t.responses = s.responses) :
    LogsGrow s t :=
  ⟨ht ▸ List.prefix_rfl, hr ▸ List.prefix_rfl⟩

/-- Where the logs are those of `s'`, they grow as those of `s'` do. -/
theorem LogsGrow.congr_left {s s' t : State} (h : LogsGrow s' t) (ht : s'.transcript = s.transcript)
    (hr : s'.responses = s.responses) : LogsGrow s t :=
  ⟨ht ▸ h.transcript, hr ▸ h.responses⟩

theorem LogsGrow.trans {s t u : State} (a : LogsGrow s t) (b : LogsGrow t u) : LogsGrow s u :=
  ⟨a.transcript.trans b.transcript, a.responses.trans b.responses⟩

theorem Untouched.logsGrow {s t : State} (h : Untouched s t) : LogsGrow s t := ⟨h.transcript, h.responses⟩

/-! ### SEQ's own doings -/

/-- Micro-steps made, whole or until SEQ halts: STEP's new value touches neither log. -/
theorem logsGrow_settle_thread (ops : List Micro) (s t : State) (h : settle (thread ops s) = .next t) :
    LogsGrow s t := by
  cases hr : thread ops s with
  | ran u =>
    rw [hr] at h
    cases h
    exact (thread_ran_untouched ops s _ hr).logsGrow
  | stopped u frozen =>
    rw [hr] at h
    cases h
    exact (thread_stopped_untouched ops s u frozen hr).logsGrow.trans (.of_eq rfl rfl)
  | fault f => rw [hr] at h; cases h
  | refused q => rw [hr] at h; cases h

theorem logsGrow_advance (s t : State) (h : advance s = .next t) : LogsGrow s t := by
  cases hb : s.budget with
  | none =>
    rw [advance_unlimited s hb] at h
    exact (logsGrow_settle_thread _ _ t h).congr_left rfl rfl
  | some k =>
    rw [advance_limited s k hb] at h
    exact (logsGrow_settle_thread _ _ t h).congr_left rfl rfl

theorem logsGrow_rejectRequest (e : Reject) (s t : State) (h : rejectRequest e s = .next t) : LogsGrow s t :=
  (logsGrow_advance _ t h).congr_left rfl rfl

theorem logsGrow_takeRequest (chan : Byte) (ops : List Micro) (s t : State)
    (h : takeRequest chan ops s = .next t) : LogsGrow s t := by
  unfold takeRequest at h
  split at h
  · exact (logsGrow_advance _ t h).congr_left rfl rfl
  · cases h
    exact .of_eq rfl rfl

theorem logsGrow_runWire (ops : List Micro) (s t : State) (h : runWire ops s = .next t) : LogsGrow s t := by
  unfold runWire at h
  split at h
  · exact logsGrow_settle_thread ops s t h
  · cases h

/-- A wire command's meaning in every MODE: W_BATTERY has none (R207), each other one is run as the next
thing of the request in progress. -/
theorem exec_wire_cases (i : Instr) (s : State) (h : isWire i = true) :
    exec i s = .refused .batteryShapeUnknown ∨ exec i s = runWire (wireOps i) s := by
  cases i with
  | wBattery => exact .inl rfl
  | wReadCh | wWriteCh | wDisable | wEnable | wFlashOn | wFlashOff | wReset | wRemoteStart | wRemoteEnd
  | wKeyDown | wKeyUp => exact .inr rfl
  | _ => cases h

theorem logsGrow_exec (i : Instr) (s t : State) (h : exec i s = .next t) : LogsGrow s t := by
  cases hw : isWire i with
  | false =>
    obtain ⟨chan, ops, he⟩ := exec_request i hw
    exact logsGrow_takeRequest chan ops s t (he s ▸ h)
  | true =>
    rcases exec_wire_cases i s hw with he | he <;> rw [he] at h
    · cases h
    · exact logsGrow_runWire _ s t h

/-! ### The host's turn and the port -/

/-- What the host's next action does, when it is one at a port of its own (R344). -/
theorem hostTurn_cases (s t : State) (h : hostTurn s = some t) :
    (∃ f rest, s.host = .present f :: rest ∧ t = { s with host := rest, port := s.port ++ [f] }) ∨
    (∃ no rest, s.host = .readStatus no :: rest ∧
      t = { s with host := rest, statusReads := s.statusReads ++ [(no, statusRegister no s)] }) ∨
    (∃ rest, s.host = .blockReset :: rest ∧ t = blockReset { s with host := rest }) := by
  unfold hostTurn at h
  split at h
  · next f rest hs => cases h; exact .inl ⟨f, rest, hs, rfl⟩
  · next no rest hs => cases h; exact .inr (.inl ⟨no, rest, hs, rfl⟩)
  · next rest hs => cases h; exact .inr (.inr ⟨rest, hs, rfl⟩)
  · cases h

/-- SEQ's turn begun: at most the host's schedule and the limit change. -/
theorem seqTurn_cases (s : State) :
    seqTurn s = s ∨ ∃ k rest, s.host = .proceed k :: rest ∧ seqTurn s = { s with host := rest, budget := k } := by
  unfold seqTurn
  split
  · next k rest hs => exact .inr ⟨k, rest, hs, rfl⟩
  · exact .inl rfl

/-- What SEQ does next: nothing, the request in progress, or the first frame at the port, which leaves
it, whether it is a request or not (R240). -/
theorem fetch_cases (s : State) :
    fetch s = .idle ∨ fetch s = .resume ∨
    ∃ f fs, s.port = f :: fs ∧
      ((∃ i, decodeRequest f = .ok i ∧ fetch s = .request i { s with port := fs }) ∨
        ∃ e, decodeRequest f = .error e ∧ fetch s = .illegal e { s with port := fs }) := by
  unfold fetch
  split
  · exact .inl rfl
  · split
    · exact .inr (.inl rfl)
    · split
      · unfold fetchFrame
        split
        · exact .inl rfl
        · next f fs hp =>
          refine .inr (.inr ⟨f, fs, hp, ?_⟩)
          split
          · next i hd => exact .inl ⟨i, hd, rfl⟩
          · next e hd => exact .inr ⟨e, hd, rfl⟩
      · exact .inl rfl

theorem logsGrow_hostTurn (s t : State) (h : hostTurn s = some t) (hr : ∀ rest, s.host ≠ .blockReset :: rest) :
    LogsGrow s t := by
  rcases hostTurn_cases s t h with ⟨f, rest, -, rfl⟩ | ⟨no, rest, -, rfl⟩ | ⟨rest, hs, -⟩
  · exact .of_eq rfl rfl
  · exact .of_eq rfl rfl
  · exact absurd hs (hr rest)

theorem logsGrow_seqTurn (s : State) : LogsGrow s (seqTurn s) := by
  rcases seqTurn_cases s with h | ⟨k, rest, -, h⟩ <;> rw [h] <;> exact .of_eq rfl rfl

/-! ### Every step -/

theorem logsGrow_seqStep (s t : State) (h : seqStep s = .next t) : LogsGrow s t := by
  rcases fetch_cases s with hf | hf | ⟨f, fs, -, ⟨i, -, hf⟩ | ⟨e, -, hf⟩⟩ <;> simp only [seqStep, hf] at h
  · cases h
    exact .of_eq rfl rfl
  · exact logsGrow_advance s t h
  · exact (logsGrow_exec i _ t h).congr_left rfl rfl
  · exact (logsGrow_rejectRequest e _ t h).congr_left rfl rfl

/-- Every step but a block reset adds to the two logs (R45). -/
theorem logsGrow_step (s t : State) (h : step s = .next t) (hr : ∀ rest, s.host ≠ .blockReset :: rest) :
    LogsGrow s t := by
  unfold step at h
  split at h
  · next u hu =>
    cases h
    exact logsGrow_hostTurn s _ hu hr
  · exact (logsGrow_seqTurn s).trans (logsGrow_seqStep _ t h)

/-- Settles O59: block reset starts from the reset state's empty logs, and `logsGrow_step` is the rest. -/
theorem logsOnlyGrowUntilBlockReset : Obligations.LogsOnlyGrowUntilBlockReset := by
  refine ⟨fun s => ⟨rfl, rfl⟩, fun s t h hr => ?_⟩
  have hg := logsGrow_step s t h hr
  exact ⟨hg.transcript, hg.responses⟩

end Sys2Proof.Machine

/-! PROOF. The checksum (40_checksum.md R130, R134). -/

namespace Sys2Proof.Machine

/-- R130 as arithmetic: the bytes' carries out of the low eight bits are what the modulus drops. -/
theorem toNat_checksum (s : List Byte) : (checksum s).toNat = (s.map BitVec.toNat).sum % 256 := by
  induction s with
  | nil => rfl
  | cons b s ih =>
    calc (checksum (b :: s)).toNat
        = (b.toNat + (checksum s).toNat) % 256 := by rw [checksum_cons, BitVec.toNat_add]
      _ = (b.toNat + (s.map BitVec.toNat).sum) % 256 := by rw [ih, Nat.add_mod_mod]
      _ = ((b :: s).map BitVec.toNat).sum % 256 := by rw [List.map_cons, List.sum_cons]

/-- The order of the bytes does not count: their sum has none (R134). -/
theorem checksum_perm {s t : List Byte} (h : s.Perm t) : checksum s = checksum t :=
  BitVec.eq_of_toNat_eq <| by rw [toNat_checksum, toNat_checksum, (h.map BitVec.toNat).sum_eq]

/-- One byte moved by `k`, wherever it stands, moves the checksum by `k` (R134). -/
theorem checksum_add_at (a c : List Byte) (b k : Byte) :
    checksum (a ++ (b + k) :: c) = checksum (a ++ b :: c) + k := by
  simp only [checksum_append, checksum_cons]
  ac_rfl

/-- Settles O52: each property follows from the sum of the byte values; 32 * 255 is 224 modulo 256. -/
theorem checksumIsTheSumModulo256 : Obligations.ChecksumIsTheSumModulo256 := by
  have erased : checksum (List.replicate 32 0xFF#8) = 224#8 :=
    BitVec.eq_of_toNat_eq <| by rw [toNat_checksum, List.map_replicate, List.sum_replicate]; rfl
  exact ⟨toNat_checksum, checksum_append, fun _ _ => checksum_perm, checksum_add_at, checksum_nil, erased⟩

end Sys2Proof.Machine

/-! PROOF. The round trips of the group codec and of the letters (41_group_codec.md R149). A byte is its two
nibbles and the nibbles of two joined are those two, so `gdecode` and `gencode` undo each other; a valid group
value is its low nibble, so the four slots show what was put in and 0 beyond it; and of each valid character's
value the letter is that character in upper case. -/

namespace Sys2Proof.Machine

/-! ### Nibbles -/

theorem joinNibbles (b : Byte) : b.extractLsb' 4 4 ++ b.extractLsb' 0 4 = b := by
  rw [BitVec.extractLsb'_append_extractLsb'_eq_extractLsb' (by omega)]
  exact BitVec.extractLsb'_eq_self

theorem lowNibble_append (hi lo : Nibble) : (hi ++ lo : Byte).extractLsb' 0 4 = lo :=
  BitVec.extractLsb'_append_eq_right

theorem highNibble_append (hi lo : Nibble) : (hi ++ lo : Byte).extractLsb' 4 4 = hi :=
  BitVec.extractLsb'_append_eq_left

/-- R149 (a). -/
theorem gencode_gdecode (b0 b1 : Byte) : gencode (gdecode b0 b1) = (b0, b1) :=
  Prod.ext (joinNibbles b0) (joinNibbles b1)

/-- R149 (b), of four values. -/
theorem gdecode_gencode (g : Groups) : gdecode (gencode g).1 (gencode g).2 = g := by
  simp only [gdecode, gencode, lowNibble_append, highNibble_append]

/-! ### Padding -/

theorem setWidth_nibble_of_le {v : Byte} (h : v.toNat ≤ 15) : (v.setWidth 4).setWidth 8 = v := by
  bv_omega

/-- Past its end a sequence reads 0, which is "no group" (R142): every byte read of valid values is one. -/
theorem byteAt_le_of_forall {g : List Byte} (hg : ∀ v ∈ g, v.toNat ≤ 15) (i : Nat) : (byteAt g i).toNat ≤ 15 := by
  rcases lt_or_ge i g.length with hi | hi
  · simpa [byteAt, hi] using hg _ (List.getElem_mem hi)
  · simp [byteAt, hi]

/-- At most four bytes, read at the four offsets, are those bytes and 0 after them. -/
theorem byteAt_four (g : List Byte) (h : g.length ≤ 4) :
    [byteAt g 0, byteAt g 1, byteAt g 2, byteAt g 3] = g ++ List.replicate (4 - g.length) 0#8 := by
  match g with
  | [] | [_] | [_, _] | [_, _, _] | [_, _, _, _] => rfl
  | _ :: _ :: _ :: _ :: _ :: _ => simp only [List.length_cons] at h; omega

/-- The four slots of valid values (R142). -/
theorem groupBytes_padGroups (g : List Byte) (hlen : g.length ≤ 4) (hg : ∀ v ∈ g, v.toNat ≤ 15) :
    groupBytes (padGroups g) = g ++ List.replicate (4 - g.length) 0#8 := by
  have slot : ∀ i, ((byteAt g i).setWidth 4).setWidth 8 = byteAt g i :=
    fun i => setWidth_nibble_of_le (byteAt_le_of_forall hg i)
  simp only [groupBytes, padGroups, slot, byteAt_four g hlen]

/-! ### Letters -/

/-- The upper case of a character of R143's alphabet: in it, 0x61 on are the small letters. -/
def upperCase (c : Byte) : Byte := if 0x61 ≤ c.toNat then c - 0x20#8 else c

/-- The characters that have a value (R143): a capital, a small letter, '0'. -/
theorem letterValue_some_cases {c v : Byte} (h : letterValue c = some v) :
    (0x41 ≤ c.toNat ∧ c.toNat ≤ 0x4F ∧ v = c - 0x40#8) ∨
    (0x61 ≤ c.toNat ∧ c.toNat ≤ 0x6F ∧ v = c - 0x60#8) ∨
    (c = 0x30#8 ∧ v = 0#8) := by
  unfold letterValue at h
  split_ifs at h with capital small zero <;> cases h
  · exact .inl ⟨capital.1, capital.2, rfl⟩
  · exact .inr (.inl ⟨small.1, small.2, rfl⟩)
  · exact .inr (.inr ⟨zero, rfl⟩)

/-- The letters of the values 1 to 15 (R144). -/
theorem valueLetter_of_group {v : Byte} (h1 : 1 ≤ v.toNat) (h15 : v.toNat ≤ 15) : valueLetter v = 0x40#8 + v :=
  if_pos ⟨h1, h15⟩

/-- R149 (c), of one character. -/
theorem valueLetter_of_letterValue {c v : Byte} (h : letterValue c = some v) : valueLetter v = upperCase c := by
  rcases letterValue_some_cases h with ⟨hlo, hhi, rfl⟩ | ⟨hlo, hhi, rfl⟩ | ⟨rfl, rfl⟩
  · rw [valueLetter_of_group (by bv_omega) (by bv_omega), upperCase, if_neg (by omega)]
    bv_omega
  · rw [valueLetter_of_group (by bv_omega) (by bv_omega), upperCase, if_pos hlo]
    bv_omega
  · rfl

/-- The values of a sequence of characters are those of its first and of the rest. -/
theorem letterValues_cons_some {c : Byte} {t vs : List Byte} (h : letterValues (c :: t) = some vs) :
    ∃ v ws, letterValue c = some v ∧ letterValues t = some ws ∧ vs = v :: ws := by
  obtain ⟨v, hv, h⟩ := Option.bind_eq_some_iff.mp h
  obtain ⟨ws, hws, rfl⟩ := Option.map_eq_some_iff.mp h
  exact ⟨v, ws, hv, hws, rfl⟩

theorem numbersToLetters_of_letterValues {t v : List Byte} (h : letterValues t = some v) :
    numbersToLetters v = t.map upperCase := by
  induction t generalizing v with
  | nil => cases h; rfl
  | cons c t ih =>
    obtain ⟨x, ws, hx, hws, rfl⟩ := letterValues_cons_some h
    exact congrArg₂ List.cons (valueLetter_of_letterValue hx) (ih hws)

theorem letterValues_of_lettersToNumbers {t v : List Byte} (h : lettersToNumbers t = some v) :
    letterValues t = some v := by
  unfold lettersToNumbers at h
  split at h
  · exact h
  · cases h

/-- Settles O53: the two round trips of the nibbles, the padding of valid values, and the letters one by one. -/
theorem groupCodecRoundTrips : Obligations.GroupCodecRoundTrips := by
  refine ⟨gencode_gdecode, gdecode_gencode, fun g hlen hg => ?_, fun t v h => ?_⟩
  · rw [gdecode_gencode, groupBytes_padGroups g hlen hg]
  · exact numbersToLetters_of_letterValues (letterValues_of_lettersToNumbers h)

end Sys2Proof.Machine

/-! PROOF. The round trips of the channel record (42_channel_record.md R177, R178). What the decoder reads of an
encoded record is said offset by offset, each field then being the inverse of its codec: byte order, nibbles, flag
bits, and the name's padding, which `strip0` undoes and which puts back what `strip0` took off. -/

namespace Sys2Proof.Machine

/-! ### The name's trailing 0x00 bytes -/

theorem strip0_cons_of_ne_nil (b : Byte) {t : List Byte} (h : strip0 t ≠ []) : strip0 (b :: t) = b :: strip0 t := by
  cases ht : strip0 t with
  | nil => exact absurd ht h
  | cons c u => simp only [strip0, ht]

/-- A 0x00 byte at the end is removed (R164). -/
theorem strip0_concat_zero (t : List Byte) : strip0 (t ++ [0#8]) = strip0 t := by
  induction t with
  | nil => rfl
  | cons b t ih => simp only [List.cons_append, strip0, ih]

/-- Any other byte at the end is kept, and so is all before it (R164). -/
theorem strip0_concat_of_ne (t : List Byte) {b : Byte} (h : b ≠ 0#8) : strip0 (t ++ [b]) = t ++ [b] := by
  induction t with
  | nil => exact if_neg h
  | cons c t ih =>
    have hne : strip0 (t ++ [b]) ≠ [] := by simp [ih]
    rw [List.cons_append, strip0_cons_of_ne_nil c hne, ih]

theorem strip0_append_zeros (t : List Byte) (k : Nat) : strip0 (t ++ List.replicate k 0#8) = strip0 t := by
  induction k with
  | zero => simp
  | succ k ih => rw [List.replicate_succ', ← List.append_assoc, strip0_concat_zero, ih]

theorem strip0_eq_self {t : List Byte} (h : t.getLast? ≠ some 0#8) : strip0 t = t := by
  rcases List.eq_nil_or_concat' t with rfl | ⟨u, b, rfl⟩
  · rfl
  · exact strip0_concat_of_ne u (by simpa using h)

/-- What is removed is 0x00 bytes (R164). -/
theorem exists_eq_strip0_append_zeros (t : List Byte) : ∃ k, t = strip0 t ++ List.replicate k 0#8 := by
  induction t using List.reverseRecOn with
  | nil => exact ⟨0, rfl⟩
  | append_singleton t b ih =>
    by_cases hb : b = 0#8
    · obtain ⟨k, hk⟩ := ih
      refine ⟨k + 1, ?_⟩
      rw [hb, strip0_concat_zero, List.replicate_succ', ← List.append_assoc, ← hk]
    · exact ⟨0, by simp [strip0_concat_of_ne t hb]⟩

/-- Padding to the length it had gives the name's slot back (R168). -/
theorem strip0_padded (t : List Byte) : strip0 t ++ List.replicate (t.length - (strip0 t).length) 0#8 = t := by
  obtain ⟨k, hk⟩ := exists_eq_strip0_append_zeros t
  have hlen : t.length - (strip0 t).length = k := by
    have := congrArg List.length hk
    simp only [List.length_append, List.length_replicate] at this
    omega
  rw [hlen, ← hk]

/-! ### The flags byte -/

theorem modulationOf_modulationCode (m : Modulation) : modulationOf (modulationCode m) = m := by
  cases m <;> rfl

theorem modulationCode_modulationOf (b : BitVec 2) : modulationCode (modulationOf b) = b := by
  revert b; decide

theorem bandwidthCode_bandwidthOf (b : Bool) : bandwidthCode (bandwidthOf b) = BitVec.ofBool b := by
  cases b <;> rfl

/-- Bits 2:1 of what is encoded (R162, R166). -/
theorem flagsByte_modulationBits (m : Modulation) (w : Bandwidth) :
    (flagsByte m w).extractLsb' 1 2 = modulationCode m := by
  cases m <;> cases w <;> rfl

/-- Bit 0 of what is encoded (R163, R166). -/
theorem flagsByte_bandwidthBit (m : Modulation) (w : Bandwidth) : bandwidthOf ((flagsByte m w).getLsbD 0) = w := by
  cases m <;> cases w <;> rfl

/-- The reserved bits are made 1, and the three others are kept (R166). -/
theorem flagsByte_decoded (b : Byte) :
    flagsByte (modulationOf (b.extractLsb' 1 2)) (bandwidthOf (b.getLsbD 0)) = b ||| 0xF8#8 := by
  rw [flagsByte, modulationCode_modulationOf, bandwidthCode_bandwidthOf]
  ext i hi
  interval_cases i <;> simp

/-! ### The record, offset by offset -/

theorem map_byteAt_range (s : List Byte) {n : Nat} (h : n ≤ s.length) : (List.range n).map (byteAt s) = s.take n := by
  refine List.ext_getElem (by simpa using h) fun i hi _ => ?_
  have hin : i < n := by simpa using hi
  simp [byteAt, hin.trans_le h]

theorem le32_rencode_rx (r : Record) : le32 (rencode r) 0 = r.rx := joinBytes32 r.rx

theorem le32_rencode_tx (r : Record) : le32 (rencode r) 4 = r.tx := joinBytes32 r.tx

theorem le16_rencode_rxt (r : Record) : le16 (rencode r) 8 = r.rxt := joinBytes16 r.rxt

theorem le16_rencode_txt (r : Record) : le16 (rencode r) 10 = r.txt := joinBytes16 r.txt

theorem byteAt_rencode_pwr (r : Record) : byteAt (rencode r) 12 = r.pwr := rfl

theorem gdecode_rencode (r : Record) : gdecode (byteAt (rencode r) 13) (byteAt (rencode r) 14) = r.g :=
  gdecode_gencode r.g

theorem byteAt_rencode_flags (r : Record) : byteAt (rencode r) 15 = flagsByte r.modulation r.bandwidth := rfl

theorem drop_rencode (r : Record) :
    (rencode r).drop 20 = r.name ++ List.replicate (Config.nameBytes - r.name.length) 0#8 := rfl

/-- The name read back from the padded slot (R164, R168). -/
theorem strip0_rencode_name (r : Record) (h : r.name.length ≤ 12) :
    strip0 (((rencode r).drop 20).take Config.nameBytes) = strip0 r.name := by
  have hslot : ((rencode r).drop 20).length = Config.nameBytes := by
    rw [List.length_drop, rencode_length r h, Config.nameBytes]
  rw [List.take_of_length_le hslot.le, drop_rencode, strip0_append_zeros]

/-- R177, the trailing 0x00 bytes of the name included. -/
theorem rdecode_rencode (r : Record) (h : r.name.length ≤ 12) :
    rdecode (rencode r) = { r with name := strip0 r.name } := by
  simp only [rdecode, le32_rencode_rx, le32_rencode_tx, le16_rencode_rxt, le16_rencode_txt, byteAt_rencode_pwr,
    gdecode_rencode, byteAt_rencode_flags, flagsByte_modulationBits, modulationOf_modulationCode,
    flagsByte_bandwidthBit, strip0_rencode_name r h]

/-- Settles O54: `rdecode_rencode`, and a name that does not end in 0x00 is left as it is by `strip0`. -/
theorem recordValueRoundTrip : Obligations.RecordValueRoundTrip := by
  refine fun r hlen => ⟨rdecode_rencode r hlen, fun hlast => ?_⟩
  rw [rdecode_rencode r hlen, strip0_eq_self hlast]

/-- The fields before the flags byte are the first 15 bytes as they were read (R101 to R106). -/
theorem encodedFields_rdecode (s : List Byte) (h : 15 ≤ s.length) :
    bytesLE32 (rdecode s).rx ++ bytesLE32 (rdecode s).tx ++ bytesLE16 (rdecode s).rxt ++ bytesLE16 (rdecode s).txt ++
      [(rdecode s).pwr, (gencode (rdecode s).g).1, (gencode (rdecode s).g).2] = s.take 15 := by
  simp only [rdecode, bytesLE32_le32, bytesLE16_le16, gencode_gdecode]
  exact map_byteAt_range s h

/-- The name's slot is bytes 20 to 31 as they were read (R109, R164, R168). -/
theorem paddedName_rdecode (s : List Byte) (h : s.length = 32) :
    (rdecode s).name ++ List.replicate (Config.nameBytes - (rdecode s).name.length) 0#8 = s.drop 20 := by
  have hlen : (s.drop 20).length = Config.nameBytes := by rw [List.length_drop, h, Config.nameBytes]
  have hname : (rdecode s).name = strip0 (s.drop 20) := congrArg strip0 (List.take_of_length_le hlen.le)
  rw [hname, ← hlen, strip0_padded]

/-- Settles O55: an encoded record is its fields, flags byte, reserved bytes and name's slot; of a decoded one
the first and the last are the bytes read. -/
theorem recordBytesRoundTrip : Obligations.RecordBytesRoundTrip := by
  intro s hs
  have hflags : flagsByte (rdecode s).modulation (rdecode s).bandwidth = byteAt s 15 ||| 0xF8#8 := flagsByte_decoded _
  rw [← encodedFields_rdecode s (by omega), ← paddedName_rdecode s hs, ← hflags]
  simp only [rencode, List.append_assoc, List.cons_append, List.nil_append]

end Sys2Proof.Machine

/-! PROOF. The battery command (43_protocol.md R207). -/

namespace Sys2Proof.Machine

/-- Settles O22 by two equations: W_BATTERY's arm of `exec`, and its meaning, which reads nothing of the state. -/
theorem batteryCommandStops : Obligations.BatteryCommandStops := by
  intro s
  calc exec .wBattery s = execWBattery s := rfl
    _ = .refused .batteryShapeUnknown := rfl

end Sys2Proof.Machine

/-! PROOFS. The validation of a descriptor's supplied fields (45_validation.md R282 to R293). Each test of the
model is its domain, stated once; the list of checks is then an if-else chain, one link per check. -/

namespace Sys2Proof.Machine

/-! ### The domains -/

/-- A frequency's domain (R282). -/
theorem freqOk_iff (f : Word32) : freqOk f = true ↔ 1800000 ≤ f.toNat ∧ f.toNat ≤ 130000000 := by
  rw [freqOk, Bool.and_eq_true, decide_eq_true_iff, decide_eq_true_iff, Config.freqMin, Config.freqMax]

/-- A subtone's domain: none, or a tone (R283). -/
theorem toneOk_iff (t : Word16) : toneOk t = true ↔ t.toNat = 0 ∨ (670 ≤ t.toNat ∧ t.toNat ≤ 2541) := by
  rw [toneOk, Bool.or_eq_true, Bool.and_eq_true, decide_eq_true_iff, decide_eq_true_iff, decide_eq_true_iff,
    Config.toneMin, Config.toneMax]

/-- The domain of the four group values (R286). -/
theorem groupsOk_iff (rd : RD) :
    groupsOk rd = true ↔ rd.g0.toNat ≤ 15 ∧ rd.g1.toNat ≤ 15 ∧ rd.g2.toNat ≤ 15 ∧ rd.g3.toNat ≤ 15 := by
  simp only [groupsOk, groupOk, Bool.and_eq_true, decide_eq_true_eq, and_assoc]

/-- A modulation's domain (R288). -/
theorem modulationOk_iff (v : Byte) : modulationOk v = true ↔ v.toNat ≤ 3 := decide_eq_true_iff

/-- A bandwidth's domain (R289). -/
theorem bandwidthOk_iff (v : Byte) : bandwidthOk v = true ↔ v.toNat ≤ 1 := decide_eq_true_iff

/-- When a name is truncated (R285). -/
theorem truncates_iff (m : Word16) (rd : RD) :
    truncates m rd = true ↔ m.getLsbD 8 = true ∧ 12 < rd.name.length := by
  rw [truncates, supplied, Bool.and_eq_true, decide_eq_true_iff, Config.nameBytes]

/-! ### The order of the checks -/

/-- The first check of a list decides if its field is supplied and outside its domain `P`. -/
theorem firstFailure_cons {ok : Bool} {P : Prop} [Decidable P] (h : ok = true ↔ P) (m : Word16) (bit : Nat)
    (code : Byte) (cs : List (Nat × Byte × Bool)) :
    firstFailure m ((bit, code, ok) :: cs) =
      if m.getLsbD bit = true ∧ ¬P then some code else firstFailure m cs := by
  simp [firstFailure, supplied, ← h]

/-- A check that always passes, as power's does (R284), decides nothing. -/
theorem firstFailure_cons_pass (m : Word16) (bit : Nat) (code : Byte) (cs : List (Nat × Byte × Bool)) :
    firstFailure m ((bit, code, true) :: cs) = firstFailure m cs := by
  simp [firstFailure]

/-- The order of R292 with the domain and the code of each field. -/
theorem fieldFailure_eq (m : Word16) (rd : RD) :
    fieldFailure m rd =
      if m.getLsbD 0 = true ∧ ¬(1800000 ≤ rd.rx.toNat ∧ rd.rx.toNat ≤ 130000000) then some 2#8
      else if m.getLsbD 1 = true ∧ ¬(1800000 ≤ rd.tx.toNat ∧ rd.tx.toNat ≤ 130000000) then some 3#8
      else if m.getLsbD 2 = true ∧ ¬(rd.rxt.toNat = 0 ∨ (670 ≤ rd.rxt.toNat ∧ rd.rxt.toNat ≤ 2541)) then some 4#8
      else if m.getLsbD 3 = true ∧ ¬(rd.txt.toNat = 0 ∨ (670 ≤ rd.txt.toNat ∧ rd.txt.toNat ≤ 2541)) then some 5#8
      else if m.getLsbD 5 = true ∧
        ¬(rd.g0.toNat ≤ 15 ∧ rd.g1.toNat ≤ 15 ∧ rd.g2.toNat ≤ 15 ∧ rd.g3.toNat ≤ 15) then some 7#8
      else if m.getLsbD 6 = true ∧ ¬(rd.modulation.toNat ≤ 3) then some 8#8
      else if m.getLsbD 7 = true ∧ ¬(rd.bandwidth.toNat ≤ 1) then some 9#8
      else none := by
  rw [fieldFailure, fieldChecks, firstFailure_cons (freqOk_iff rd.rx), firstFailure_cons (freqOk_iff rd.tx),
    firstFailure_cons (toneOk_iff rd.rxt), firstFailure_cons (toneOk_iff rd.txt), firstFailure_cons_pass,
    firstFailure_cons (groupsOk_iff rd), firstFailure_cons (modulationOk_iff rd.modulation),
    firstFailure_cons (bandwidthOk_iff rd.bandwidth), firstFailure]

/-! ### The two micro-steps -/

/-- The checks leave VALIDATION with the first failing field, or nothing (R280, R293). -/
theorem perform_validateFields (n : Byte) (m : Word16) (rd : RD) (s : State) :
    perform (.validateFields n m rd) s = .next (match fieldFailure m rd with
      | some code => validationFault code n s
      | none => s) := by
  refine congrArg Host.Outcome.next ?_
  obtain ⟨code, hf, hv⟩ | ⟨hf, hv⟩ := validateFields_cases n m rd s
  · rw [hv, hf, invalid_eq]
  · rw [hv, hf]

/-- The end of a name's validation sets WARN_NAME_TRUNC, or nothing (R285, R293). -/
theorem perform_noteTruncation (m : Word16) (rd : RD) (s : State) :
    perform (.noteTruncation (truncates m rd)) s = .next
      (if m.getLsbD 8 = true ∧ 12 < rd.name.length then { s with flags := setBit s.flags 2 true } else s) := by
  simp only [← truncates_iff]
  rfl

/-- Settles O26: what the two micro-steps leave, and `truncates` and `fieldFailure` in terms of the domains. -/
theorem firstFailingFieldIsReported : Obligations.FirstFailingFieldIsReported :=
  ⟨fun n m rd s => ⟨perform_validateFields n m rd s, perform_noteTruncation m rd s⟩,
    fun m rd => ⟨truncates_iff m rd, fieldFailure_eq m rd⟩⟩

end Sys2Proof.Machine

/-! PROOFS. Fault entry (60_exceptions.md R330) and its frame (30_encoding.md R99). A latched byte carries its own
mark of presence, from which the frame is read back; where the run ends is `thread_cons_faulted`. -/

namespace Sys2Proof.Machine

/-- The upper part of a latched byte marks whether there is one (R99, R330). -/
theorem latched_mark (o : Option Byte) :
    ((latched o).extractLsb' 8 1).setWidth 8 = if o.isSome then 0x01#8 else 0x00#8 := by
  cases o with
  | none => rfl
  | some b =>
    have hmark : (0x100#9 ||| b.setWidth 9).extractLsb' 8 1 = 1#1 := by
      ext j hj
      obtain rfl : j = 0 := by omega
      simp
    rw [latched, hmark]
    rfl

/-- The lower eight bits are the byte, 0 where there is none (R99, R330). -/
theorem latched_byte (o : Option Byte) : (latched o).extractLsb' 0 8 = o.getD 0x00#8 := by
  cases o with
  | none => rfl
  | some b =>
    have hmask : (0x100#9).extractLsb' 0 8 = 0#8 := rfl
    have hbyte : (b.setWidth 9).extractLsb' 0 8 = b := by
      rw [← BitVec.setWidth_eq_extractLsb' (by decide), BitVec.setWidth_setWidth_of_le _ (by decide),
        BitVec.setWidth_eq]
    rw [latched, BitVec.extractLsb'_or, hmask, hbyte, BitVec.zero_or, Option.getD_some]

/-- The fault frame from the information itself (R99). -/
theorem faultFrame_eq (c : FaultClass) (i : FaultInfo) :
    faultFrame c i = [0x80#8 ||| faultCode c, i.sub,
      if i.expected.isSome then 0x01#8 else 0x00#8, i.expected.getD 0x00#8,
      if i.received.isSome then 0x01#8 else 0x00#8, i.received.getD 0x00#8, i.chan, i.cmd] := by
  rw [faultFrame, latched_mark, latched_byte, latched_mark, latched_byte]

/-- Settles O15: `raise` field by field with its frame as `faultFrame_eq` has it, for a value present or not; the
run that ends at the raising micro-step is `thread_cons_faulted`. -/
theorem faultEntryLatches : Obligations.FaultEntryLatches := by
  refine ⟨fun c i s => ?_, fun op ops s t hp hm => ?_⟩
  · rw [raise, faultFrame_eq, out]
    obtain ⟨sub, expected, received, chan, cmd⟩ := i
    cases expected <;> cases received <;> rfl
  · rw [thread_cons_faulted op ops s t hp hm, settle_stopped]

end Sys2Proof.Machine

/-! PROOFS. The decoder and the encoder undo each other (30_encoding.md R91, R94, R95, R111). A parser and the
encoder of its operands are paired once (`Reads`), a row of the frame tables is such a pair under its code
(`RowLaw`), and what holds of every row holds of the decoder. -/

namespace Sys2Proof

open Machine (bytesLE16 bytesLE16_le16 le16_bytesLE16 isWire)

/-! ### Parsers and what they read -/

/-- The parser `p` reads what `enc` writes of an operand that fits, whatever follows it, and nothing else. -/
structure Reads {α : Type} (p : List Byte → Option (α × List Byte)) (enc : α → List Byte) (fits : α → Bool) :
    Prop where
  read : ∀ a rest, fits a = true → p (enc a ++ rest) = some (a, rest)
  written : ∀ s a rest, p s = some (a, rest) → s = enc a ++ rest ∧ fits a = true

theorem reads_parseByte : Reads parseByte (fun b => [b]) (fun _ => true) where
  read _ _ _ := rfl
  written s a rest h := by
    cases s with
    | nil => cases h
    | cons b s => cases h; exact ⟨rfl, rfl⟩

theorem reads_parseTwo : Reads parseTwo (fun p => [p.1, p.2]) (fun _ => true) where
  read _ _ _ := rfl
  written s a rest h := by
    match s with
    | [] | [_] => cases h
    | _ :: _ :: _ => cases h; exact ⟨rfl, rfl⟩

theorem reads_parseCounted : Reads parseCounted encodeCounted countFits where
  read := parseCounted_encodeCounted
  written := parseCounted_eq_some

/-- A 32-byte operand (R100). -/
theorem reads_record : Reads (splitBytes Config.recordBytes) (fun s => s) recordSized where
  read a rest h := by
    rw [← eq_of_beq h]
    exact splitBytes_append a rest
  written s a rest h := by
    obtain ⟨hs, hl⟩ := splitBytes_eq_some _ s a rest h
    exact ⟨hs, beq_iff_eq.2 hl⟩

theorem reads_parseRD : Reads parseRD encodeRD RD.wellFormed where
  read := parseRD_encodeRD
  written := parseRD_eq_some

/-- A mask, low byte first, before an `RD` (R93). -/
theorem reads_parseMaskRD :
    Reads parseMaskRD (fun p => bytesLE16 p.1 ++ encodeRD p.2) (fun p => p.2.wellFormed) where
  read a rest h := by
    obtain ⟨m, rd⟩ := a
    rw [List.append_assoc]
    change (parseRD (encodeRD rd ++ rest)).map _ = _
    rw [parseRD_encodeRD rd rest h, Option.map_some]
    exact congrArg (fun v => some ((v, rd), rest)) (le16_bytesLE16 m)
  written s a rest h := by
    match s with
    | [] | [_] => cases h
    | lo :: hi :: s =>
      obtain ⟨⟨rd, t⟩, hrd, hq⟩ := Option.map_eq_some_iff.1 h
      cases hq
      obtain ⟨rfl, hf⟩ := parseRD_eq_some s rd t hrd
      exact ⟨by simp [bytesLE16_le16, Machine.byteAt], hf⟩

/-- A channel number before other operands. -/
theorem Reads.channel {α : Type} {p : List Byte → Option (α × List Byte)} {enc : α → List Byte} {fits : α → Bool}
    (R : Reads p enc fits) {q : List Byte → Option ((Byte × α) × List Byte)} (hnil : q [] = none)
    (hcons : ∀ n s, q (n :: s) = (p s).map fun r => ((n, r.1), r.2)) :
    Reads q (fun a => a.1 :: enc a.2) (fun a => fits a.2) where
  read a rest h := by
    obtain ⟨n, a⟩ := a
    rw [List.cons_append, hcons, R.read a rest h, Option.map_some]
  written s a rest h := by
    cases s with
    | nil => rw [hnil] at h; cases h
    | cons n s =>
      rw [hcons] at h
      obtain ⟨⟨a, t⟩, ha, hq⟩ := Option.map_eq_some_iff.1 h
      cases hq
      obtain ⟨rfl, hf⟩ := R.written s a t ha
      exact ⟨rfl, hf⟩

theorem reads_parseChannelRD :
    Reads parseChannelRD (fun a => a.1 :: encodeRD a.2) (fun a => a.2.wellFormed) :=
  reads_parseRD.channel rfl fun _ _ => rfl

theorem reads_parseChannelMaskRD :
    Reads parseChannelMaskRD (fun a => a.1 :: (bytesLE16 a.2.1 ++ encodeRD a.2.2)) (fun a => a.2.2.wellFormed) :=
  reads_parseMaskRD.channel rfl fun _ _ => rfl

/-- A count of entries and the entries (R94). -/
theorem reads_parseImport :
    Reads parseImport (fun es => BitVec.ofNat 8 es.length :: es.flatMap fun e => e.1 :: encodeRD e.2)
      (fun es => countFits es && es.all fun e => e.2.wellFormed) where
  read es rest h := by
    simp only [Bool.and_eq_true, countFits, decide_eq_true_eq, List.all_eq_true] at h
    have hk : (BitVec.ofNat 8 es.length).toNat = es.length := by
      rw [BitVec.toNat_ofNat]; omega
    rw [List.cons_append, parseImport, hk]
    exact parseEntries_encoded es rest h.2
  written s es rest h := by
    cases s with
    | nil => cases h
    | cons k s =>
      obtain ⟨rfl, hl, hwf⟩ := parseEntries_eq_some _ s es rest h
      have hk := k.isLt
      simp only [hl, BitVec.ofNat_toNat, BitVec.setWidth_eq, List.cons_append, Bool.and_eq_true, countFits,
        decide_eq_true_eq, List.all_eq_true, true_and]
      exact ⟨by omega, hwf⟩

/-- A channel number, 32 data bytes and a checksum byte (R111). -/
theorem reads_parseWrite :
    Reads parseWrite (fun a => a.1 :: (a.2.1 ++ [a.2.2])) (fun a => recordSized a.2.1) where
  read a rest h := by
    obtain ⟨n, d, c⟩ := a
    rw [List.cons_append, List.append_assoc, parseWrite, reads_record.read d _ h]
    rfl
  written s a rest h := by
    cases s with
    | nil => cases h
    | cons n s =>
      unfold parseWrite at h
      dsimp only at h
      split at h
      · cases h
      · next d t hd =>
        obtain ⟨⟨c, u⟩, hc, hq⟩ := Option.map_eq_some_iff.1 h
        cases hq
        obtain ⟨rfl, hf⟩ := reads_record.written s d t hd
        obtain ⟨rfl, -⟩ := reads_parseByte.written t c u hc
        exact ⟨by simp, hf⟩

/-- A whole frame is one of which nothing is left over (R94). -/
theorem wholeFrame_ok_iff (r : Except Reject (Instr × List Byte)) (i : Instr) :
    wholeFrame r = .ok i ↔ r = .ok (i, []) := by
  rcases r with e | ⟨j, rest⟩
  · simp [wholeFrame]
  · cases rest <;> simp [wholeFrame]

/-- A whole frame of operands that fit. -/
theorem Reads.wholeFrame_build {α : Type} {p : List Byte → Option (α × List Byte)} {enc : α → List Byte}
    {fits : α → Bool} (R : Reads p enc fits) (mk : α → Instr) (a : α) (h : fits a = true) :
    wholeFrame (build mk (p (enc a))) = .ok (mk a) := by
  rw [← List.append_nil (enc a), R.read a [] h]
  rfl

/-! ### Rows of the frame tables -/

/-- What holds of the parser of the operands after the first byte `b`: what it reads of a frame is what the encoder
writes, it reads the same when more bytes follow, and it fails for want of bytes alone, unless it always fails. -/
structure RowLaw (b : Byte) (parse : List Byte → Except Reject (Instr × List Byte)) : Prop where
  written : ∀ s i rest, parse s = .ok (i, rest) → b :: s = encode i ++ rest
  extended : ∀ s i rest more, parse s = .ok (i, rest) → parse (s ++ more) = .ok (i, rest ++ more)
  short : ∀ s e, parse s = .error e → e = .badLength ∨ ∀ t, parse t = .error e

/-- A row with operands. -/
theorem rowLaw_build {α : Type} {p : List Byte → Option (α × List Byte)} {enc : α → List Byte} {fits : α → Bool}
    (R : Reads p enc fits) {b : Byte} {mk : α → Instr} (he : ∀ a, encode (mk a) = b :: enc a) :
    RowLaw b fun s => build mk (p s) where
  written s i rest h := by
    rcases hp : p s with _ | ⟨a, r⟩ <;> rw [hp] at h <;> cases h
    rw [he, (R.written s a rest hp).1, List.cons_append]
  extended s i rest more h := by
    rcases hp : p s with _ | ⟨a, r⟩ <;> rw [hp] at h <;> cases h
    obtain ⟨rfl, hf⟩ := R.written s a rest hp
    rw [List.append_assoc, R.read a _ hf]
    rfl
  short s e h := by
    rcases hp : p s with _ | ⟨a, r⟩ <;> rw [hp] at h <;> cases h
    exact .inl rfl

/-- A row whose frame is its code alone. -/
theorem rowLaw_code {b : Byte} {i : Instr} (he : encode i = [b]) : RowLaw b fun s => .ok (i, s) where
  written s j rest h := by cases h; rw [he]; rfl
  extended s j rest more h := by cases h; rfl
  short s e h := by cases h

/-- A first byte that no row has. -/
theorem rowLaw_undefined (b : Byte) (e : Reject) : RowLaw b fun _ => .error e where
  written s j rest h := by cases h
  extended s j rest more h := by cases h
  short s e' h := by cases h; exact .inr fun _ => rfl

/-- The request codes end at 0x17 (R91, R92). -/
theorem parseRequestBody_of_ge (req : Byte) (h : 0x18 ≤ req.toNat) :
    parseRequestBody req = fun _ => .error (.undefinedRequest req) := by
  funext s
  unfold parseRequestBody
  split <;> first | omega | rfl

/-- Every request code (R91), and every other byte, which is undefined (R92). -/
theorem rowLaw_parseRequestBody (req : Byte) : RowLaw req (parseRequestBody req) := by
  have hreq : req = BitVec.ofNat 8 req.toNat := by simp
  rcases Nat.lt_or_ge req.toNat 0x18 with hlt | hge
  · generalize req.toNat = k at hreq hlt
    subst hreq
    interval_cases k
    · exact rowLaw_undefined _ _
    · exact rowLaw_build reads_parseByte fun _ => rfl
    · exact rowLaw_build reads_parseChannelRD fun _ => rfl
    · exact rowLaw_build reads_parseByte fun _ => rfl
    · exact rowLaw_build reads_parseChannelMaskRD fun _ => rfl
    · exact rowLaw_build reads_parseChannelMaskRD fun _ => rfl
    · exact rowLaw_code rfl
    · exact rowLaw_build reads_parseImport fun _ => rfl
    · exact rowLaw_build reads_parseCounted fun _ => rfl
    · exact rowLaw_code rfl
    · exact rowLaw_code rfl
    · exact rowLaw_code rfl
    · exact rowLaw_code rfl
    · exact rowLaw_undefined _ _
    · exact rowLaw_undefined _ _
    · exact rowLaw_code rfl
    · exact rowLaw_build reads_parseCounted fun _ => rfl
    · exact rowLaw_build reads_parseTwo fun _ => rfl
    · exact rowLaw_build reads_parseCounted fun _ => rfl
    · exact rowLaw_build reads_parseCounted fun _ => rfl
    · exact rowLaw_build reads_parseCounted fun _ => rfl
    · exact rowLaw_build reads_record fun _ => rfl
    · exact rowLaw_build reads_parseRD fun _ => rfl
    · exact rowLaw_build reads_record fun _ => rfl
  · rw [parseRequestBody_of_ge req hge]
    exact rowLaw_undefined _ _

/-- The key bytes: 0x80 | c with bit 7 set, and of code 127 alone the key-up byte (R213, R214). -/
theorem keyByte_of_msb (op : Byte) (h : op.msb = true) : 0x80#8 ||| (op.setWidth 7).setWidth 8 = op := by
  revert op; decide

theorem parseWireBody_keyByte (c : BitVec 7) (h : c ≠ 127#7) :
    parseWireBody (0x80#8 ||| c.setWidth 8) [] = .ok (.wKeyDown c, []) := by
  have hup : 0x80#8 ||| c.setWidth 8 ≠ 0xFF#8 := by revert c; decide
  have hmsb : (0x80#8 ||| c.setWidth 8 : Byte).msb = true := by revert c; decide
  have hcode : (0x80#8 ||| c.setWidth 8 : Byte).setWidth 7 = c := by revert c; decide
  rw [parseWireBody, if_neg hup, if_pos hmsb, hcode]

/-- Every opcode (R111, R115). -/
theorem parseWireBody_written (op : Byte) (s : List Byte) (i : Instr) (rest : List Byte)
    (h : parseWireBody op s = .ok (i, rest)) : op :: s = encode i ++ rest := by
  have hop : op = BitVec.ofNat 8 op.toNat := by simp
  unfold parseWireBody at h
  split_ifs at h with hup hmsb
  · cases h
    exact congrArg (· :: s) hup
  · cases h
    exact congrArg (· :: s) (keyByte_of_msb op hmsb).symm
  · generalize op.toNat = k at hop h
    subst hop
    split at h
    · exact (rowLaw_build (mk := .wReadCh) reads_parseByte fun _ => rfl).written s i rest h
    · exact (rowLaw_build (mk := fun p => .wWriteCh p.1 p.2.1 p.2.2) reads_parseWrite fun _ => rfl).written s i rest h
    all_goals cases h <;> rfl

/-- Settles O2: of either layer, the frame's bytes are those written for what is read, none left over. -/
theorem encodeInvertsDecode : Obligations.EncodeInvertsDecode := by
  intro f i h
  cases f with
  | nil => cases h
  | cons b s =>
    have hwhole := (wholeFrame_ok_iff _ i).1 h
    unfold parseBody at hwhole
    split at hwhole
    · simpa using ((rowLaw_parseRequestBody b).written s i [] hwhole).symm
    · simpa using (parseWireBody_written b s i [] hwhole).symm

/-- Settles O1, constructor by constructor: the code leads to the parser that reads the operands. -/
theorem decodeEncodeRoundTrip : Obligations.DecodeEncodeRoundTrip := by
  intro i h
  cases i with
  | wReadCh n => exact reads_parseByte.wholeFrame_build .wReadCh n rfl
  | wWriteCh n d c =>
    simp only [Instr.wellFormed, Bool.and_eq_true] at h
    exact reads_parseWrite.wholeFrame_build (fun p => .wWriteCh p.1 p.2.1 p.2.2) (n, d, c) h.1.2
  | wKeyDown c =>
    have hc : c ≠ 127#7 := bne_iff_ne.1 h
    have hlarge : ¬ (0x80#8 ||| c.setWidth 8 : Byte).toNat < 0x30 := by revert c; decide
    rw [encode, decode, parseBody, if_neg hlarge, parseWireBody_keyByte c hc]
    rfl
  | get n => exact reads_parseByte.wholeFrame_build .get n rfl
  | put n rd => exact reads_parseChannelRD.wholeFrame_build (fun p => .put p.1 p.2) (n, rd) h
  | erase n => exact reads_parseByte.wholeFrame_build .erase n rfl
  | writeNew n m rd =>
    exact reads_parseChannelMaskRD.wholeFrame_build (fun p => .writeNew p.1 p.2.1 p.2.2) (n, m, rd) h
  | update n m rd =>
    exact reads_parseChannelMaskRD.wholeFrame_build (fun p => .update p.1 p.2.1 p.2.2) (n, m, rd) h
  | importAll es => exact reads_parseImport.wholeFrame_build .importAll es h
  | sendKeys cs => exact reads_parseCounted.wholeFrame_build .sendKeys cs h
  | checksum s => exact reads_parseCounted.wholeFrame_build .checksum s h
  | groupDecode b0 b1 => exact reads_parseTwo.wholeFrame_build (fun p => .groupDecode p.1 p.2) (b0, b1) rfl
  | groupEncode g => exact reads_parseCounted.wholeFrame_build .groupEncode g h
  | groupFromLetters t => exact reads_parseCounted.wholeFrame_build .groupFromLetters t h
  | groupToLetters v => exact reads_parseCounted.wholeFrame_build .groupToLetters v h
  | recordDecode s => exact reads_record.wholeFrame_build .recordDecode s h
  | recordEncode rd => exact reads_parseRD.wholeFrame_build .recordEncode rd h
  | isEmpty s => exact reads_record.wholeFrame_build .isEmpty s h
  | wBattery | wDisable | wEnable | wFlashOn | wFlashOff | wReset | wRemoteStart | wRemoteEnd | wKeyUp
  | exportAll | flashOn | flashOff | resetRadio | readBattery | openTransport => rfl

/-! ### Frames with bytes missing or left over -/

/-- The code of a request stands below every opcode (R91, R115). -/
theorem encode_request_cons (i : Instr) (hreq : isWire i = false) :
    ∃ req ops, encode i = req :: ops ∧ req.toNat < 0x30 := by
  cases i with
  | wReadCh | wWriteCh | wBattery | wDisable | wEnable | wFlashOn | wFlashOff | wReset | wRemoteStart | wRemoteEnd
  | wKeyDown | wKeyUp => cases hreq
  | _ => exact ⟨_, _, rfl, by decide⟩

/-- A request's frame is its code and what the code's parser reads whole. -/
theorem encode_request (i : Instr) (hwf : i.wellFormed = true) (hreq : isWire i = false) :
    ∃ req ops, encode i = req :: ops ∧ parseRequestBody req ops = .ok (i, []) := by
  obtain ⟨req, ops, he, hlow⟩ := encode_request_cons i hreq
  have hd := decodeEncodeRoundTrip i hwf
  rw [he, decode, wholeFrame_ok_iff, parseBody, if_pos hlow] at hd
  exact ⟨req, ops, he, hd⟩

/-- Operands cut short: whatever is read of them would be read of the whole too and leave the same bytes over. -/
theorem decodeRequest_cut {req : Byte} {ops : List Byte} {i : Instr} (h : parseRequestBody req ops = .ok (i, []))
    (k : Nat) (hk : k < ops.length) : decodeRequest (req :: ops.take k) = .error .badLength := by
  have row := rowLaw_parseRequestBody req
  rw [decodeRequest]
  rcases hp : parseRequestBody req (ops.take k) with e | ⟨j, rest⟩
  · rcases row.short _ e hp with rfl | hall
    · rfl
    · rw [hall] at h; cases h
  · have hwhole := row.extended _ j rest (ops.drop k) hp
    rw [List.take_append_drop, h] at hwhole
    simp only [Except.ok.injEq, Prod.mk.injEq, List.nil_eq, List.append_eq_nil_iff, List.drop_eq_nil_iff] at hwhole
    omega

/-- Settles O4: cut operands by `decodeRequest_cut`, and bytes after a whole frame are left over. -/
theorem lengthMismatchIsNoRequest : Obligations.LengthMismatchIsNoRequest := by
  intro i hwf hreq
  obtain ⟨req, ops, he, hp⟩ := encode_request i hwf hreq
  rw [he]
  refine ⟨fun k hpos hlt => ?_, fun extra hne => ?_⟩
  · obtain ⟨k, rfl⟩ := Nat.exists_eq_succ_of_ne_zero hpos.ne'
    exact decodeRequest_cut hp k (by simpa using hlt)
  · rw [List.cons_append, decodeRequest, (rowLaw_parseRequestBody req).extended ops i [] extra hp]
    simp [wholeFrame, hne]

/-- Settles O3: each frame is what the encoder writes of a well-formed instruction. -/
theorem writtenFramesDecode : Obligations.WrittenFramesDecode :=
  ⟨decodeEncodeRoundTrip (.get 7#8) rfl, decodeEncodeRoundTrip (.sendKeys [10#8, 3#8]) rfl,
    decodeEncodeRoundTrip .openTransport rfl, decodeEncodeRoundTrip (.groupEncode [1#8, 0#8, 15#8, 2#8]) rfl,
    decodeEncodeRoundTrip (.wReadCh 198#8) rfl, decodeEncodeRoundTrip (.wKeyDown 10#7) rfl,
    decodeEncodeRoundTrip .wKeyUp rfl⟩

end Sys2Proof

/-! PROOFS. The invariant (10_state.md R23, R28, R29, R36, R37; 20_memory.md R64, R70). Each operation keeps it, so
each micro-step made by a SEQ that is not halted does; so do a list of micro-steps, the request in progress carried
on, a request taken, the host's actions, and every step. -/

namespace Sys2Proof.Machine

/-! ### What the operations keep -/

/-- The invariant speaks of eight elements alone. -/
theorem StateInv.congr {s t : State} (h : StateInv s) (mode : t.mode = s.mode := by rfl)
    (flags : t.flags = s.flags := by rfl) (errCode : t.errCode = s.errCode := by rfl)
    (recBuf : t.recBuf = s.recBuf := by rfl) (ws : t.ws = s.ws := by rfl)
    (txCount : t.txCount = s.txCount := by rfl) (rxCount : t.rxCount = s.rxCount := by rfl)
    (transcript : t.transcript = s.transcript := by rfl) : StateInv t where
  flagsReserved := by rw [flags]; exact h.flagsReserved
  refusedMark := by rw [readFlag, flags, mode]; exact h.refusedMark
  faultLatched := by rw [errCode, mode]; exact h.faultLatched
  recBufCanonical := by rw [recBuf]; exact h.recBufCanonical
  wsCanonical := by rw [ws]; exact h.wsCanonical
  txCounted := by rw [txCount, transcript]; exact h.txCounted
  rxCounted := by rw [rxCount, transcript]; exact h.rxCounted
  readsBounded := by rw [transcript]; exact h.readsBounded

theorem txBytes_append (a b : List Event) : txBytes (a ++ b) = txBytes a ++ txBytes b := by
  induction a with
  | nil => rfl
  | cons e a ih => cases e <;> simp [txBytes, ih]

theorem rxBytes_append (a b : List Event) : rxBytes (a ++ b) = rxBytes a ++ rxBytes b := by
  induction a with
  | nil => rfl
  | cons e a ih => cases e <;> simp [rxBytes, ih]

theorem StateInv.tx {s : State} (h : StateInv s) (b : Byte) : StateInv (tx b s) where
  __ := h
  txCounted := by simp [txBytes_append, txBytes, h.txCounted, BitVec.ofNat_add]
  rxCounted := by simp [rxBytes_append, rxBytes, h.rxCounted]
  readsBounded n r hr := h.readsBounded n r (by simpa using hr)

theorem StateInv.dwell {s : State} (h : StateInv s) : StateInv (dwell s) where
  __ := h
  txCounted := by simp [txBytes_append, txBytes, h.txCounted]
  rxCounted := by simp [rxBytes_append, rxBytes, h.rxCounted]
  readsBounded n r hr := h.readsBounded n r (by simpa using hr)

theorem StateInv.rxState {s : State} (h : StateInv s) (n : Nat) (hn : n = 1 ∨ n = 33) : StateInv (rxState n s) where
  __ := h
  txCounted := by simp [txBytes_append, txBytes, h.txCounted]
  rxCounted := by simp [rxBytes_append, rxBytes, h.rxCounted, BitVec.ofNat_add]
  readsBounded k r hr := by
    simp only [rxState_transcript, List.mem_append, List.mem_singleton, Event.rx.injEq] at hr
    rcases hr with hr | ⟨rfl, rfl⟩
    · exact h.readsBounded k r hr
    · exact ⟨hn, peerBytes_length_le k s⟩

/-- A flag write leaves the reserved bits: the flags stand at bits 4:0 (R23). -/
theorem setBit_flagBit_reserved (v : Byte) (f : Flag) (b : Bool) :
    (setBit v (flagBit f) b).extractLsb' 5 3 = v.extractLsb' 5 3 := by
  have hf : flagBit f < 5 := by cases f <;> decide
  ext i hi
  simp [getLsbD_setBit _ _ (5 + i) _ (by omega), show flagBit f ≠ 5 + i by omega]

/-- A flag other than REFUSED_MARK written. -/
theorem StateInv.writeFlag {s : State} (h : StateInv s) (f : Flag) (b : Bool) (hf : f ≠ .refusedMark) :
    StateInv (writeFlag f b s) where
  __ := h
  flagsReserved := (setBit_flagBit_reserved s.flags f b).trans h.flagsReserved
  refusedMark := by rw [readFlag_writeFlag_other f .refusedMark b s hf]; exact h.refusedMark

theorem StateInv.loadRecord {s : State} (h : StateInv s) (d : List Byte) (hd : d.length ≤ 32) :
    StateInv (loadRecord d s) where
  __ := h
  recBufCanonical := Memory.wf_ofBytes d hd

theorem StateInv.storeEncoded {s : State} (h : StateInv s) (r : Record) : StateInv (storeEncoded r s) :=
  h.loadRecord _ (List.length_take_le _ _)

theorem StateInv.wsErase {s : State} (h : StateInv s) (n : Byte) : StateInv { s with ws := wsErase n s.ws } where
  __ := h
  wsCanonical := workingSetWf_wsErase n s.ws h.wsCanonical

theorem StateInv.setEntry {s : State} (h : StateInv s) (n : Byte) (rd : RD) : StateInv (setEntry n rd s) := by
  rcases setEntry_cases n rd s with ⟨hn, hf, he⟩ | ⟨-, he⟩ <;> rw [he]
  · exact { h with wsCanonical := workingSetWf_wsInsert n _ s.ws hn (recordOk_recordOf rd hf) h.wsCanonical }
  · exact h

theorem not_halted_iff (s : State) : halted s = false ↔ s.mode ≠ .faulted ∧ s.mode ≠ .refused := by
  simp [halted]

/-- Outside FAULTED and REFUSED no fault is latched and REFUSED_MARK is 0. -/
theorem StateInv.mode {s : State} (h : StateInv s) (hh : halted s = false) (m : Mode) (hf : m ≠ .faulted)
    (hr : m ≠ .refused) : StateInv { s with mode := m } where
  __ := h
  refusedMark := by
    change readFlag .refusedMark s = true ↔ m = .refused
    simp [h.refusedMark, ((not_halted_iff s).1 hh).2, hr]
  faultLatched := by
    change s.errCode ≠ .none ↔ m = .faulted
    simp [h.faultLatched, ((not_halted_iff s).1 hh).1, hf]

/-- Fault entry by a SEQ that is not halted. -/
theorem StateInv.raise {s : State} (h : StateInv s) (hh : halted s = false) (c : FaultClass) (i : FaultInfo)
    (hc : c ≠ .none) : StateInv (raise c i s) where
  __ := h
  refusedMark := by
    change readFlag .refusedMark s = true ↔ Mode.faulted = .refused
    simp [h.refusedMark, ((not_halted_iff s).1 hh).2]
  faultLatched := by
    change c ≠ .none ↔ Mode.faulted = .faulted
    simp [hc]

/-- Refusal by a SEQ that is not halted. -/
theorem StateInv.refuse {s : State} (h : StateInv s) (hh : halted s = false) : StateInv (refuse s) where
  __ := h
  flagsReserved := (setBit_flagBit_reserved s.flags .refusedMark true).trans h.flagsReserved
  refusedMark := by
    change readFlag .refusedMark (Machine.writeFlag .refusedMark true s) = true ↔ Mode.refused = .refused
    simp
  faultLatched := by
    change s.errCode ≠ .none ↔ Mode.refused = .faulted
    simp [h.faultLatched, ((not_halted_iff s).1 hh).1]

theorem StateInv.require {s : State} (h : StateInv s) (hh : halted s = false) (ok : Bool) (field chan : Byte) :
    StateInv (require ok field chan s) := by
  rcases require_cases ok field chan s with ⟨-, e⟩ | ⟨-, e⟩ <;> rw [e]
  · exact h
  · exact h.raise hh _ _ (by decide)

theorem StateInv.checkEncoded {s : State} (h : StateInv s) (hh : halted s = false) (r : Record) :
    StateInv (checkEncoded r s) := by
  rcases checkEncoded_cases r s with ⟨-, e⟩ | ⟨-, e⟩ <;> rw [e]
  · exact h
  · exact h.raise hh _ _ (by decide)

theorem StateInv.checkAck {s : State} (h : StateInv s) (hh : halted s = false) (b : Byte) :
    StateInv (checkAck b s) := by
  rcases checkAck_cases b s with ⟨-, e⟩ | ⟨-, e⟩ <;> rw [e]
  · exact h
  · exact h.raise hh _ _ (by decide)

theorem StateInv.checkLength {s : State} (h : StateInv s) (hh : halted s = false) : StateInv (checkLength s) := by
  rcases checkLength_cases s with ⟨-, e⟩ | ⟨-, -, e⟩ | ⟨-, e⟩ <;> rw [e]
  · exact h.raise hh _ _ (by decide)
  · exact h.raise hh _ _ (by decide)
  · exact h

theorem StateInv.checkSum {s : State} (h : StateInv s) (hh : halted s = false) : StateInv (checkSum s) := by
  rcases checkSum_cases s with ⟨-, e⟩ | ⟨-, e⟩ <;> rw [e]
  · exact h
  · exact h.raise hh _ _ (by decide)

theorem StateInv.validateFields {s : State} (h : StateInv s) (hh : halted s = false) (n : Byte) (m : Word16)
    (rd : RD) : StateInv (validateFields n m rd s) := by
  rcases validateFields_cases n m rd s with ⟨code, -, e⟩ | ⟨-, e⟩ <;> rw [e]
  · exact h.raise hh _ _ (by decide)
  · exact h

/-! ### Micro-steps -/

/-- Every micro-step of a SEQ that is not halted keeps the invariant. -/
theorem perform_stateInv (op : Micro) (s t : State) (h : StateInv s) (hh : halted s = false)
    (hp : perform op s = .next t) : StateInv t := by
  have via : ∀ u, perform op s = .next u → StateInv u → StateInv t := by
    intro u hu hi
    rw [hu] at hp
    cases hp
    exact hi
  cases op with
  | localValue => exact via s rfl h
  | rejectFrame reason => exact via _ rfl (h.raise hh _ _ (by decide))
  | clearWarning => exact via _ rfl (h.writeFlag _ _ (by decide))
  | admitTransport =>
    refine via _ rfl ?_
    split
    · exact h.raise hh _ _ (by decide)
    · split
      · exact h.raise hh _ _ (by decide)
      · exact h
  | admitOpen =>
    refine via _ rfl ?_
    split
    · exact h
    · exact h.raise hh _ _ (by decide)
  | begin => exact via _ rfl (h.mode hh .busy (by decide) (by decide))
  | refuseBattery => exact via _ rfl (h.refuse hh)
  | tx b => exact via _ rfl (h.tx _)
  | txRec i => exact via _ rfl (h.tx _)
  | txCheck => exact via _ rfl (h.tx _)
  | readAck => exact via _ rfl (h.rxState 1 (.inl rfl))
  | checkAck b => exact via _ rfl (h.checkAck hh b)
  | readRecord => exact via _ rfl (h.rxState 33 (.inr rfl))
  | checkLength => exact via _ rfl (h.checkLength hh)
  | sumResponse => exact via _ rfl h.congr
  | checkSum => exact via _ rfl (h.checkSum hh)
  | takeRecord => exact via _ rfl (h.loadRecord _ (List.length_take_le _ _))
  | dwell => exact via _ rfl h.dwell
  | keyDown c =>
    by_cases hc : c = 127#7
    · simp [perform, hc] at hp
    · exact via (Machine.tx (0x80#8 ||| c.setWidth 8) s) (by simp [perform, hc]) (h.tx _)
  | radioDisabled b => exact via _ rfl (h.writeFlag _ _ (by decide))
  | remoteActive b => exact via _ rfl (h.writeFlag _ _ (by decide))
  | address n =>
    by_cases hn : channelExists n = true
    · exact via { s with addrReg := n } (by simp [perform, hn]) h.congr
    · simp [perform, hn] at hp
  | sumRecord => exact via _ rfl h.congr
  | validateChannel n => exact via _ rfl (h.require hh _ _ _)
  | validateFields n m rd => exact via _ rfl (h.validateFields hh n m rd)
  | noteTruncation long =>
    refine via _ rfl ?_
    cases long
    · exact h
    · exact h.writeFlag _ _ (by decide)
  | validateKeys cs => exact via _ rfl (h.require hh _ _ _)
  | encode r => exact via _ rfl (h.storeEncoded r)
  | checkEncoded r => exact via _ rfl (h.checkEncoded hh r)
  | encodeMerged m rd => exact via _ rfl (h.storeEncoded _)
  | checkMerged m rd => exact via _ rfl (h.checkEncoded hh _)
  | fillEmpty => exact via _ rfl (h.loadRecord _ emptySlot_length.le)
  | loadFrame d c =>
    by_cases hd : (recordSized d && c == checksum d) = true
    · have hlen : d.length = 32 := eq_of_beq (Bool.and_eq_true_iff.1 hd).1
      exact via (Machine.loadRecord d s) (by rw [perform, if_pos hd]) (h.loadRecord d hlen.le)
    · rw [perform, if_neg hd] at hp
      cases hp
  | noteEmpty => exact via _ rfl (h.writeFlag _ _ (by decide))
  | requireSlot n =>
    refine via _ rfl ?_
    split
    · exact h.raise hh _ _ (by decide)
    · exact h
  | setChanCtr n => exact via _ rfl h.congr
  | exportItem =>
    refine via _ rfl ?_
    split
    · exact h
    · exact h.congr
  | clearEntry j => exact via _ rfl (h.wsErase j)
  | requireAbsent n => exact via _ rfl (h.require hh _ _ _)
  | setEntry n rd => exact via _ rfl (h.setEntry n rd)
  | importSlot n =>
    refine via _ rfl ?_
    split
    · exact h.storeEncoded _
    · exact h.loadRecord _ emptySlot_length.le
  | checkSlot n =>
    refine via _ rfl ?_
    split
    · exact h.checkEncoded hh _
    · exact h
  | requireOpen =>
    have hu : StateInv (openingUsed s) := h.congr
    refine via _ rfl ?_
    split
    · exact hu
    · exact hu.raise hh _ _ (by decide)
  | complete terminal =>
    refine via _ rfl ?_
    cases terminal
    · exact h.mode hh .idle (by decide) (by decide)
    · exact h.mode hh .terminated (by decide) (by decide)
  | respond => exact via _ rfl h.congr
  | respondGet =>
    refine via _ rfl ?_
    split <;> exact h.congr
  | respondRecord => exact via _ rfl h.congr
  | emit item => exact via _ rfl h.congr
  | setCheck c => exact via _ rfl h.congr
  | setLastEmpty e => exact via _ rfl (h.writeFlag _ _ (by decide))
  | requireGroups g => exact via _ rfl (h.require hh _ _ _)
  | requireLetters t => exact via _ rfl (h.require hh _ _ _)
  | requireCount v => exact via _ rfl (h.require hh _ _ _)
  | batteryExchange => cases hp

theorem settle_thread_stateInv (ops : List Micro) (s t : State) (ht : settle (thread ops s) = .next t)
    (h : StateInv s) (hh : halted s = false) : StateInv t := by
  induction ops generalizing s with
  | nil => cases ht; exact h
  | cons op ops ih =>
    rcases hp : perform op s with u | f | q <;> simp only [thread, hp] at ht
    · have hu := perform_stateInv op s u h hh hp
      split at ht
      · cases ht; exact hu.congr
      · next hn => exact ih u ht hu (by simpa using hn)
    · cases ht
    · cases ht

/-! ### SEQ's doings and the host's -/

theorem advance_stateInv (s t : State) (ht : advance s = .next t) (h : StateInv s) (hh : halted s = false) :
    StateInv t := by
  cases hb : s.budget with
  | none =>
    rw [advance_unlimited s hb] at ht
    exact settle_thread_stateInv _ _ t ht h.congr hh
  | some k =>
    rw [advance_limited s k hb] at ht
    exact settle_thread_stateInv _ _ t ht h.congr hh

/-- A request taken, or a wire command run, keeps the invariant. -/
theorem exec_stateInv (i : Instr) (s t : State) (h : StateInv s) (ht : exec i s = .next t) : StateInv t := by
  cases hw : isWire i with
  | false =>
    obtain ⟨chan, ops, he⟩ := exec_request i hw
    rw [he, takeRequest] at ht
    split at ht
    · next ha => exact advance_stateInv _ t ht h.congr (halted_of_accepts s ha)
    · cases ht; exact h
  | true =>
    rcases exec_wire_cases i s hw with he | he <;> rw [he] at ht
    · cases ht
    · rw [runWire] at ht
      split at ht
      · next hm => exact settle_thread_stateInv _ s t ht h (halted_of_busy s hm)
      · cases ht

/-- Settles O57, clause by clause: at reset each element has its least value and the transcript is empty. -/
theorem resetHasTheInvariant : Obligations.ResetHasTheInvariant where
  flagsReserved := rfl
  refusedMark := by decide
  faultLatched := by decide
  recBufCanonical := reset_recBuf_wf
  wsCanonical := workingSetWf_nil
  txCounted := rfl
  rxCounted := rfl
  readsBounded _ _ h := by cases h

theorem blockReset_stateInv (s : State) : StateInv (blockReset s) :=
  StateInv.congr (s := State.reset) resetHasTheInvariant

theorem hostTurn_stateInv (s t : State) (h : StateInv s) (ht : hostTurn s = some t) : StateInv t := by
  rcases hostTurn_cases s t ht with ⟨f, rest, -, rfl⟩ | ⟨no, rest, -, rfl⟩ | ⟨rest, -, rfl⟩
  · exact h.congr
  · exact h.congr
  · exact blockReset_stateInv _

theorem seqTurn_stateInv (s : State) (h : StateInv s) : StateInv (seqTurn s) := by
  rcases seqTurn_cases s with e | ⟨k, rest, -, e⟩ <;> rw [e]
  · exact h
  · exact h.congr

/-- A SEQ that goes on or takes a frame is not halted (R332, R334). -/
theorem fetch_of_halted (s : State) (hh : halted s = true) : fetch s = .idle := by
  rw [fetch, if_pos hh]

theorem not_halted_of_fetch (s : State) (h : fetch s ≠ .idle) : halted s = false := by
  cases hh : halted s with
  | true => exact absurd (fetch_of_halted s hh) h
  | false => rfl

theorem seqStep_stateInv (s t : State) (h : StateInv s) (ht : seqStep s = .next t) : StateInv t := by
  rcases fetch_cases s with hf | hf | ⟨f, fs, -, ⟨i, -, hf⟩ | ⟨e, -, hf⟩⟩ <;> simp only [seqStep, hf] at ht
  · cases ht; exact h
  · exact advance_stateInv s t ht h (not_halted_of_fetch s (by simp [hf]))
  · exact exec_stateInv i _ t h.congr ht
  · exact advance_stateInv _ t ht h.congr (not_halted_of_fetch s (by simp [hf]))

/-- Settles O58: the host's turn, or SEQ's own. -/
theorem stepKeepsTheInvariant : Obligations.StepKeepsTheInvariant := by
  intro s t h ht
  unfold step at ht
  split at ht
  · next u hu => cases ht; exact hostTurn_stateInv s _ h hu
  · exact seqStep_stateInv _ t (seqTurn_stateInv s h) ht

end Sys2Proof.Machine

/-! PROOFS. The step function (10_state.md R42, R44; 44_channel_store.md R240; 60_exceptions.md R332, R344;
70_reset_and_hazards.md R360, R375). The host's turn is read off its next action, SEQ's own turn off MODE, STEP and
the port; a pause cuts a list of micro-steps in two, which `thread_append` joins again. -/

namespace Sys2Proof.Machine

/-! ### Whose turn it is -/

/-- With no action of the host due, the step is SEQ's. -/
theorem step_of_host_nil (s : State) (h : s.host = []) : step s = seqStep s := by
  simp [step, hostTurn, seqTurn, h]

/-- A `proceed` of the host begins SEQ's turn with its limit. -/
theorem step_of_proceed (s : State) (k : Option Nat) (rest : List HostAction) (h : s.host = .proceed k :: rest) :
    step s = seqStep { s with host := rest, budget := k } := by
  simp [step, hostTurn, seqTurn, h]

theorem step_of_hostTurn (s t : State) (h : hostTurn s = some t) : step s = .next t := by
  simp [step, h]

theorem seqStep_of_halted (s : State) (hh : halted s = true) : seqStep s = .next s := by
  simp [seqStep, fetch_of_halted s hh]

/-- The request in progress goes on. -/
theorem seqStep_of_inProgress (s : State) (hh : halted s = false) (hs : s.stepPtr ≠ []) : seqStep s = advance s := by
  simp [seqStep, fetch, hh, hs]

theorem stepPtr_of_accepts (s : State) (h : accepts s = true) : s.stepPtr = [] := by
  simp only [accepts, Bool.and_eq_true, List.isEmpty_iff] at h
  exact h.1

/-- A frame is taken where SEQ accepts one. -/
theorem fetch_of_accepts (s : State) (h : accepts s = true) : fetch s = fetchFrame s := by
  simp [fetch, halted_of_accepts s h, stepPtr_of_accepts s h, h]

/-- The first frame at the port is a request: it is taken and run. -/
theorem seqStep_of_request (s : State) (f : List Byte) (fs : List (List Byte)) (i : Instr) (ha : accepts s = true)
    (hp : s.port = f :: fs) (hd : decodeRequest f = .ok i) : seqStep s = exec i { s with port := fs } := by
  simp [seqStep, fetch_of_accepts s ha, fetchFrame, hp, hd]

/-- The first frame at the port is no request: it is taken and raises its fault. -/
theorem seqStep_of_reject (s : State) (f : List Byte) (fs : List (List Byte)) (e : Reject) (ha : accepts s = true)
    (hp : s.port = f :: fs) (hd : decodeRequest f = .error e) :
    seqStep s = rejectRequest e { s with port := fs } := by
  simp [seqStep, fetch_of_accepts s ha, fetchFrame, hp, hd]

/-! ### Requests, wire commands and frames that are neither -/

/-- Settles O5: it is SEQ's turn, and the frame decodes. -/
theorem stepRunsThePresentedRequest : Obligations.StepRunsThePresentedRequest := by
  intro i f fs s _ hd hhost ha hp
  rw [step_of_host_nil s hhost, seqStep_of_request s f fs i ha hp hd]

/-- Settles O6: the request in progress goes on for the command's micro-steps, which are the command's meaning. -/
theorem stepRunsTheWireCommandAtStep : Obligations.StepRunsTheWireCommandAtStep := by
  intro i rest s hw hm hhost hs hb
  have hne : s.stepPtr ≠ [] := by
    rw [hs]
    intro h
    simp [isWire, (List.append_eq_nil_iff.1 h).1] at hw
  rw [step_of_host_nil s hhost, seqStep_of_inProgress s (halted_of_busy s hm) hne, advance_limited s _ hb, hs,
    List.take_left, List.drop_left, exec_wire i _ hw (by exact hm)]

/-- A frame that is no request ends in ILLEGAL_REQUEST, STEP frozen at the micro-step of its own (R240, R330). -/
theorem rejectRequest_eq (e : Reject) (s : State) (hh : halted s = false) (hb : s.budget = none) :
    rejectRequest e s =
      .next { illegalFault (rejectReason e) s with stepPtr := [.rejectFrame (rejectReason e)] } := by
  have fault : ∀ t : State, thread [.rejectFrame (rejectReason e)] t =
      .stopped (illegalFault (rejectReason e) t) [.rejectFrame (rejectReason e)] := fun t =>
    thread_cons_faulted _ _ _ _ (by rw [perform, illegalRequest_eq]) rfl
  have run : ∀ t : State, halted t = false → thread (rejectOps e) t =
      .stopped (illegalFault (rejectReason e) t) [.rejectFrame (rejectReason e)] := by
    intro t ht
    cases e with
    | emptyFrame => exact fault t
    | undefinedRequest | undefinedOpcode | badLength => exact (thread_localValue _ t ht).trans (fault t)
  rw [rejectRequest, advance_unlimited _ (by exact hb), run _ (by exact hh)]
  rfl

/-- A byte that is no request code (R92). -/
theorem decodeRequest_undefined (req : Byte) (payload : List Byte)
    (h : req = 0x00#8 ∨ req = 0x0D#8 ∨ req = 0x0E#8 ∨ 0x18 ≤ req.toNat) :
    decodeRequest (req :: payload) = .error (.undefinedRequest req) := by
  rcases h with rfl | rfl | rfl | hge
  · rfl
  · rfl
  · rfl
  · rw [decodeRequest, parseRequestBody_of_ge req hge]
    rfl

/-- Settles O7: the code is of no row, so the frame is rejected. -/
theorem undefinedRequestRaises : Obligations.UndefinedRequestRaises := by
  intro req payload fs s hreq hhost hb ha hp
  refine ⟨?_, rfl, rfl⟩
  rw [step_of_host_nil s hhost, seqStep_of_reject s _ fs _ ha hp (decodeRequest_undefined req payload hreq),
    rejectRequest_eq _ _ (by exact halted_of_accepts s ha) (by exact hb)]
  rfl

/-- Settles O8: both rejections have the same reason. -/
theorem wrongLengthRaises : Obligations.WrongLengthRaises := by
  intro f fs s hf hhost hb ha hp
  rw [step_of_host_nil s hhost]
  rcases hf with rfl | hd
  · rw [seqStep_of_reject s [] fs .emptyFrame ha hp rfl,
      rejectRequest_eq _ _ (by exact halted_of_accepts s ha) (by exact hb)]
    rfl
  · rw [seqStep_of_reject s f fs .badLength ha hp hd,
      rejectRequest_eq _ _ (by exact halted_of_accepts s ha) (by exact hb)]
    rfl

/-! ### What waits and what stands -/

/-- What stands at the host's ports is left there by a list of micro-steps. -/
theorem settle_thread_ports (ops : List Micro) (s t : State) (h : settle (thread ops s) = .next t) :
    t.port = s.port ∧ t.host = s.host ∧ t.statusReads = s.statusReads := by
  have of_untouched : ∀ u, Untouched s u →
      u.port = s.port ∧ u.host = s.host ∧ u.statusReads = s.statusReads := fun u hu =>
    ⟨hu.port, hu.host, hu.statusReads⟩
  rcases hr : thread ops s with u | ⟨u, frozen⟩ | f | q <;> rw [hr] at h <;> cases h
  · exact of_untouched _ (thread_ran_untouched ops s _ hr)
  · exact of_untouched u (thread_stopped_untouched ops s u frozen hr)

theorem advance_ports (s t : State) (h : advance s = .next t) :
    t.port = s.port ∧ t.host = s.host ∧ t.statusReads = s.statusReads := by
  cases hb : s.budget with
  | none =>
    rw [advance_unlimited s hb] at h
    exact (settle_thread_ports _ _ t h :)
  | some k =>
    rw [advance_limited s k hb] at h
    exact (settle_thread_ports _ _ t h :)

/-- Settles O9: where SEQ accepts no frame it does nothing, or goes on with the request in progress. -/
theorem presentedFramesWait : Obligations.PresentedFramesWait := by
  intro s t hhost ha h
  rw [step_of_host_nil s hhost] at h
  cases hh : halted s with
  | true => rw [seqStep_of_halted s hh] at h; cases h; rfl
  | false =>
    by_cases hs : s.stepPtr = []
    · simp only [seqStep, fetch, hh, hs, ha] at h
      cases h
      rfl
    · rw [seqStep_of_inProgress s hh hs] at h
      exact (advance_ports s t h).1

/-- Settles O10: the host's other actions write lists of the model's own, and SEQ does nothing in its turn. -/
theorem haltedUntilBlockReset : Obligations.HaltedUntilBlockReset := by
  intro s t hh h
  cases ht : hostTurn s with
  | some u =>
    rw [step_of_hostTurn s u ht] at h
    cases h
    rcases hostTurn_cases s _ ht with ⟨f, rest, -, rfl⟩ | ⟨no, rest, -, rfl⟩ | ⟨rest, hr, -⟩
    · exact .inr rfl
    · exact .inr rfl
    · exact .inl ⟨rest, hr⟩
  | none =>
    have hseq : step s = seqStep (seqTurn s) := by rw [step, ht]
    rw [hseq] at h
    rcases seqTurn_cases s with e | ⟨k, rest, -, e⟩ <;> rw [e, seqStep_of_halted _ (by exact hh)] at h <;> cases h
    · exact .inr rfl
    · exact .inr rfl

/-- Settles O11: the step is `blockReset`, field by field; what it does to the port turns on `halted`. -/
theorem blockResetRestores : Obligations.BlockResetRestores := by
  intro s rest h
  refine ⟨blockReset { s with host := rest }, step_of_hostTurn s _ (by rw [hostTurn, h]), rfl, rfl, rfl, rfl, rfl,
    rfl, rfl, rfl, rfl, rfl, rfl, rfl, rfl, rfl, rfl, rfl, rfl, rfl, rfl, ?_, ?_⟩
  · intro hm
    exact if_pos (by rcases hm with hm | hm <;> simp [halted, hm])
  · intro hf hr
    exact if_neg (by simp [halted, hf, hr])

/-- Settles O12: the values of `State.reset` as it is written. -/
theorem resetStateValues : Obligations.ResetStateValues :=
  ⟨rfl, rfl, rfl, rfl, rfl, rfl, rfl, rfl, rfl, rfl, rfl, rfl, fun _ => rfl, rfl, rfl, rfl⟩

/-- A reserved number reads 0 (R44). -/
theorem statusRegister_reserved (no : Byte) (s : State) (h : 0x0B ≤ no.toNat) : statusRegister no s = 0#32 := by
  unfold statusRegister
  split <;> first | omega | rfl

/-- Settles O13: the host's turn at either port; a named number reads its register. -/
theorem statusPortReads : Obligations.StatusPortReads := by
  refine ⟨fun f rest s h => step_of_hostTurn s _ (by rw [hostTurn, h]), fun no rest s h => ?_⟩
  refine ⟨statusRegister no s, step_of_hostTurn s _ (by rw [hostTurn, h]), ?_, ?_, ?_, ?_, ?_, ?_, ?_, ?_, ?_, ?_, ?_,
    statusRegister_reserved no s⟩
  all_goals rintro rfl; rfl

/-! ### Pauses -/

/-- Carrying the request on, in a state whose ports and limit are replaced: the same micro-steps run from there. -/
theorem advance_paused (s : State) (p : List (List Byte)) (h : List HostAction) (r : List (Byte × Word32)) :
    advance { s with budget := none, port := p, host := h, statusReads := r } =
      settle ((thread s.stepPtr s).mapState (paused [] none p h r)) := by
  rw [advance_unlimited _ rfl, ← thread_paused]
  rfl

/-- A limit that does not halt SEQ: the first micro-steps ran, the others are left at STEP. -/
theorem advance_limited_ran (s t : State) (k : Nat) (hb : s.budget = some k) (ht : advance s = .next t)
    (hh : halted t = false) :
    ∃ u, thread (s.stepPtr.take k) s = .ran u ∧ t = { u with stepPtr := s.stepPtr.drop k, budget := none } := by
  have hrun : { s with stepPtr := s.stepPtr.drop k, budget := none } =
      paused (s.stepPtr.drop k) none s.port s.host s.statusReads s := rfl
  rw [advance_limited s k hb, hrun, thread_paused] at ht
  rcases hr : thread (s.stepPtr.take k) s with u | ⟨u, frozen⟩ | f | q <;> rw [hr] at ht <;> cases ht
  · have hu := thread_ran_untouched _ s u hr
    refine ⟨u, rfl, ?_⟩
    rw [← hu.port, ← hu.host, ← hu.statusReads]
    rfl
  · exact absurd (thread_stopped_halted _ s u frozen hr) (by simpa [halted, paused] using hh)

/-- What is left after the pause goes on as what was never cut (R42, R375). -/
theorem advance_after_pause (s t : State) (k : Nat) (hb : s.budget = some k) (ht : advance s = .next t)
    (hh : halted t = false) (p : List (List Byte)) (h : List HostAction) (r : List (Byte × Word32)) :
    advance { t with budget := none, port := p, host := h, statusReads := r } =
      advance { s with budget := none, port := p, host := h, statusReads := r } := by
  obtain ⟨u, hu, rfl⟩ := advance_limited_ran s t k hb ht hh
  have hwhole : thread s.stepPtr s = thread (s.stepPtr.drop k) u := by
    rw [← thread_append_ran _ _ s u hu, List.take_append_drop]
  rw [advance_paused s, hwhole, ← thread_paused, advance_unlimited _ rfl]
  rfl

/-- What the host does at its ports between two micro-steps. -/
theorem hostTurn_at_ports (t : State) (a : HostAction) (rest : List HostAction) (hhost : t.host = a :: rest)
    (ha : (∃ f, a = .present f) ∨ ∃ no, a = .readStatus no) :
    ∃ p r, hostTurn t = some { t with host := rest, port := p, statusReads := r } ∧
      (∀ f, a = .present f → p = t.port ++ [f] ∧ r = t.statusReads) ∧
      (∀ no, a = .readStatus no → p = t.port ∧ ∃ v, r = t.statusReads ++ [(no, v)]) := by
  rcases ha with ⟨f, rfl⟩ | ⟨no, rfl⟩
  · refine ⟨t.port ++ [f], t.statusReads, by rw [hostTurn, hhost], ?_, ?_⟩
    · rintro _ ⟨⟩; exact ⟨rfl, rfl⟩
    · rintro _ ⟨⟩
  · refine ⟨t.port, t.statusReads ++ [(no, statusRegister no t)], by rw [hostTurn, hhost], ?_, ?_⟩
    · rintro _ ⟨⟩
    · rintro _ ⟨⟩; exact ⟨rfl, _, rfl⟩

/-- Settles O14: the cut list joined again, and said through `step`, the host's turns read off its actions. -/
theorem pausingChangesNothing : Obligations.PausingChangesNothing := by
  refine ⟨fun s t k hb ht hh p h r => ?_, ?_⟩
  · have hpause := advance_after_pause s t k hb ht hh p h r
    obtain ⟨u, -, rfl⟩ := advance_limited_ran s t k hb ht hh
    exact hpause
  intro s t k a rest hhost ha hs hnh ht hht hts
  rw [step_of_proceed s _ _ hhost, seqStep_of_inProgress _ (by exact hnh) (by exact hs)] at ht
  obtain ⟨hport, hhost', hreads⟩ := advance_ports _ t ht
  obtain ⟨p, r, hturn, hpresent, hread⟩ := hostTurn_at_ports t a (.proceed none :: rest) hhost' ha
  refine ⟨_, step_of_hostTurn t _ hturn, ?_, ?_, ?_⟩
  · rw [step_of_proceed _ none rest rfl, step_of_proceed _ none rest rfl,
      seqStep_of_inProgress _ (by exact hht) (by exact hts),
      seqStep_of_inProgress _ (by exact hnh) (by exact hs)]
    exact advance_after_pause _ t k rfl ht hht p rest r
  · intro f hf
    obtain ⟨hp, hr⟩ := hpresent f hf
    exact ⟨hp.trans (congrArg (· ++ [f]) hport), hr.trans hreads⟩
  · intro no hno
    obtain ⟨hp, v, hr⟩ := hread no hno
    exact ⟨hp.trans hport, v, hr.trans (congrArg (· ++ [(no, v)]) hreads)⟩

end Sys2Proof.Machine

/-! PROOFS. The wire commands (43_protocol.md R200 to R214): what each sends and leaves when PEER answers as expected,
the fault it ends in when PEER does not, and where it stops. -/

namespace Sys2Proof.Machine

theorem thread_nil_append (ops : List Micro) (s : State) : thread (ops ++ []) s = thread ops s := by
  rw [List.append_nil]

/-! ### Acknowledged commands -/

/-- The flag an acknowledged command writes, after its byte is echoed (R202, R203, R211, R212). -/
theorem settle_txAck_flag (e : Byte) (op : Micro) (f : Flag) (b : Bool) (s : State) (hm : s.mode = .busy)
    (hop : ∀ t, perform op t = .next (writeFlag f b t)) (hp : peerBytes 1 s = [e]) :
    settle (thread (.tx e :: (ackOps e ++ [op])) s) = .next { peerUsed s with
      flags := setBit s.flags (flagBit f) b
      transcript := s.transcript ++ [.tx e, .rx 1 [e]]
      txCount := s.txCount + 1#32
      rxCount := s.rxCount + 1#32 } := by
  rw [thread_txAck e _ s hm hp, thread_cons_busy op [] _ _ (hop _) (by exact hm)]
  rfl

/-- Settles O19: each command is its byte, the acknowledgement and its flag. -/
theorem acknowledgedCommandsComplete : Obligations.AcknowledgedCommandsComplete := by
  intro s hm
  refine ⟨fun hp => ?_, fun hp => ?_, fun hp => ?_, fun hp => ?_⟩
  · rw [exec_wire .wDisable s rfl hm]
    exact settle_txAck_flag 0x45#8 _ .radioDisabled true s hm (fun _ => rfl) hp
  · rw [exec_wire .wEnable s rfl hm]
    exact settle_txAck_flag 0x46#8 _ .radioDisabled false s hm (fun _ => rfl) hp
  · rw [exec_wire .wRemoteStart s rfl hm]
    exact settle_txAck_flag 0x4A#8 _ .remoteActive true s hm (fun _ => rfl) hp
  · rw [exec_wire .wRemoteEnd s rfl hm]
    exact settle_txAck_flag 0x4B#8 _ .remoteActive false s hm (fun _ => rfl) hp

/-- What ACK_MISMATCH latches of what was read: nothing, or the byte (R31, R32, R201). -/
theorem latched_head (r : List Byte) :
    (r = [] → latched r.head? = 0#9) ∧ ∀ b, r = [b] → latched r.head? = 0x100#9 ||| b.setWidth 9 :=
  ⟨fun h => by rw [h]; rfl, fun b h => by rw [h]; rfl⟩

/-- A byte sent whose acknowledgement is missing or another byte: ACK_MISMATCH right after the read (R201). -/
theorem settle_txAck_bad (e : Byte) (ops : List Micro) (s : State) (hm : s.mode = .busy)
    (h : (peerBytes 1 s).head? ≠ some e) :
    settle (thread (.tx e :: (ackOps e ++ ops)) s) = .next
      { raise .ackMismatch { expected := some e, received := (peerBytes 1 s).head?, chan := s.reqChan, cmd := e }
          (rxState 1 (tx e s)) with stepPtr := .checkAck e :: ops ++ s.stepPtr } := by
  rw [thread_cons_busy (.tx e) _ s (tx e s) rfl hm, thread_ackOps_bad e ops _ (by exact hm) (by exact h)]
  rfl

/-- Settles O16: of each command, `settle_txAck_bad`, field by field. -/
theorem ackMismatchFaults : Obligations.AckMismatchFaults := by
  intro p hp s hm h
  have hrun : ∃ ops, exec p.1 s = settle (thread (.tx p.2 :: (ackOps p.2 ++ ops)) s) := by
    simp only [List.mem_cons, List.not_mem_nil, or_false] at hp
    rcases hp with rfl | rfl | rfl | rfl
    · exact ⟨_, exec_wire .wDisable s rfl hm⟩
    · exact ⟨_, exec_wire .wEnable s rfl hm⟩
    · exact ⟨_, exec_wire .wRemoteStart s rfl hm⟩
    · exact ⟨_, exec_wire .wRemoteEnd s rfl hm⟩
  obtain ⟨ops, hrun⟩ := hrun
  obtain ⟨hnone, hbyte⟩ := latched_head (peerBytes 1 s)
  exact ⟨_, hrun.trans (settle_txAck_bad p.2 ops s hm h), rfl, rfl, rfl, rfl, hnone, hbyte, rfl, rfl, rfl,
    List.append_assoc _ _ _, rfl, rfl, rfl, rfl, rfl, rfl, rfl, rfl⟩

/-! ### Write channel -/

/-- W_WRITE_CH up to its acknowledgement: the 35 bytes of the frame, REC_BUF holding `d` (R206). -/
theorem thread_wWriteCh_sent (n : Byte) (d : List Byte) (s : State) (hm : s.mode = .busy)
    (hn : channelExists n = true) (hd : s.recBuf.bytes = d) :
    thread (wWriteCh n) s = thread (ackOps 0x31#8) { s with
      addrReg := n
      ckReg := checksum d
      transcript := s.transcript ++ ([.tx 0x31#8, .tx n] ++ d.map .tx ++ [.tx (checksum d)])
      txCount := s.txCount + 35#32 } := by
  simp only [wWriteCh, List.cons_append, List.nil_append, List.append_assoc]
  rw [thread_cons_busy _ _ s { s with addrReg := n } (by simp [perform, hn]) hm,
    thread_cons_busy _ _ _ { s with addrReg := n, ckReg := checksum d } (by simp [perform, recordBytes, hd]) hm,
    thread_cons_busy _ _ _ _ rfl (by simp [hm]), thread_cons_busy _ _ _ _ rfl (by simp [hm]), txRecord,
    thread_txRec _ _ _ (by simp [hm]), thread_cons_busy _ _ _ _ rfl (by simp [hm])]
  simp [tx, recordBytes_eq_finRange, hd, BitVec.add_assoc]

/-- A write-channel frame given whole: its data brought into REC_BUF, and then the command (log entry 7). -/
theorem thread_wWriteFrame (n : Byte) (d : List Byte) (s : State) (hm : s.mode = .busy) (hd : d.length = 32) :
    thread (wWriteFrame n d (checksum d)) s = thread (wWriteCh n) { s with recBuf := Memory.ofBytes d } :=
  thread_cons_busy _ _ s _ (by simp [perform, recordSized, Config.recordBytes, hd]; rfl) hm

/-- Settles O21: the data brought in, and the command acknowledged. -/
theorem writeChannelCompletes : Obligations.WriteChannelCompletes := by
  intro n d s hn hd hm hp
  rw [exec_wire (.wWriteCh n d (checksum d)) s rfl hm, wireOps, thread_wWriteFrame n d s hm hd, ← thread_nil_append,
    thread_wWriteCh n d [] _ (by exact hm) hn (by exact Memory.bytes_ofBytes d hd) (by exact hp)]
  rfl

/-- Settles O17: the whole frame is sent, and its acknowledgement fails. -/
theorem writeAckMismatchFaults : Obligations.WriteAckMismatchFaults := by
  intro n d s hn hd hm h
  have hbytes : (Memory.ofBytes d).bytes = d := Memory.bytes_ofBytes d hd
  have hsent := (thread_wWriteFrame n d s hm hd).trans
    (thread_wWriteCh_sent n d { s with recBuf := Memory.ofBytes d } hm hn hbytes)
  rw [← thread_nil_append (ackOps _), thread_ackOps_bad 0x31#8 [] _ (by exact hm) (by exact h)] at hsent
  obtain ⟨hnone, hbyte⟩ := latched_head (peerBytes 1 s)
  refine ⟨_, (exec_wire (.wWriteCh n d (checksum d)) s rfl hm).trans (congrArg settle hsent), rfl, rfl, rfl, rfl, hnone,
    hbyte, rfl, rfl, rfl, ?_, rfl, rfl, hbytes, rfl, rfl, rfl, rfl⟩
  simp only [raise_transcript, rxState_transcript, List.append_assoc, List.cons_append, List.nil_append]
  rfl

/-! ### Read channel -/

/-- W_READ_CH up to its response: the channel's address and the two bytes of the command (R204). -/
theorem exec_wReadCh (n : Byte) (s : State) (hn : channelExists n = true) (hm : s.mode = .busy) :
    exec (.wReadCh n) s = settle (thread (responseOps ++ []) { s with
      addrReg := n
      transcript := s.transcript ++ [.tx 0x30#8, .tx n]
      txCount := s.txCount + 2#32 }) := by
  rw [exec_wire (.wReadCh n) s rfl hm, thread_nil_append]
  simp only [wireOps, wReadCh, List.cons_append, List.nil_append]
  rw [thread_cons_busy _ _ s { s with addrReg := n } (by simp [perform, hn]) hm,
    thread_cons_busy _ _ _ _ rfl (by exact hm), thread_cons_busy _ _ _ _ rfl (by exact hm)]
  simp [tx, BitVec.add_assoc]

/-- Settles O18: the four ends of the read response, told apart by its length and its checksum. -/
theorem readResponseIsChecked : Obligations.ReadResponseIsChecked := by
  intro n s hn hm
  rw [exec_wReadCh n s hn hm]
  set u : State := { s with
    addrReg := n
    transcript := s.transcript ++ [.tx 0x30#8, .tx n]
    txCount := s.txCount + 2#32 } with hu
  have hle : (peerBytes 33 s).length ≤ 33 := peerBytes_length_le 33 s
  have hlog : u.transcript ++ [Event.rx 33 (peerBytes 33 s)] =
      s.transcript ++ [.tx 0x30#8, .tx n, .rx 33 (peerBytes 33 s)] := List.append_assoc _ _ _
  rcases thread_responseOps [] u hm with ⟨hl, hr⟩ | ⟨hpos, hl, hr⟩ | ⟨hl, hck, hr⟩ | ⟨hl, hck, hr⟩ <;> rw [hr]
  · change (peerBytes 33 s).length = 0 at hl
    refine ⟨fun _ => ⟨_, rfl, rfl, rfl, rfl, rfl, rfl, rfl, rfl, rfl, hlog, rfl, rfl, fun _ => ⟨rfl, rfl, rfl, rfl, rfl⟩,
      fun h => ?_, fun h => ?_⟩, fun h => ?_⟩ <;> omega
  · change 0 < (peerBytes 33 s).length at hpos
    change (peerBytes 33 s).length < 33 at hl
    refine ⟨fun _ => ⟨_, rfl, rfl, rfl, rfl, rfl, rfl, rfl, rfl, rfl, hlog, rfl, rfl, fun h => ?_,
      fun _ _ => ⟨rfl, rfl, rfl, rfl, rfl⟩, fun h => ?_⟩, fun h => ?_⟩ <;> omega
  · change 33 ≤ (peerBytes 33 s).length at hl
    refine ⟨fun _ => ⟨_, rfl, rfl, rfl, rfl, rfl, rfl, rfl, rfl, rfl, hlog, rfl, rfl, fun h => ?_, fun _ h => ?_,
      fun _ => ⟨rfl, rfl, rfl, rfl, rfl⟩⟩, fun _ h => absurd h hck⟩ <;> omega
  · change 33 ≤ (peerBytes 33 s).length at hl
    refine ⟨fun h => ?_, fun h33 _ => ?_⟩
    · rcases h with h | h
      · omega
      · exact absurd hck h
    · refine congrArg Host.Outcome.next ?_
      rw [rxState_of 33 (peerBytes 33 s) u rfl, h33, hlog]
      rfl

/-! ### Commands that expect nothing back -/

theorem settle_tx (b : Byte) (s : State) (hm : s.mode = .busy) :
    settle (thread [.tx b] s) =
      .next { s with transcript := s.transcript ++ [.tx b], txCount := s.txCount + 1#32 } := by
  rw [thread_cons_busy (.tx b) [] s (tx b s) rfl hm]
  rfl

/-- A key-down byte of a code that has one (R213). -/
theorem perform_keyDown (c : BitVec 7) (s : State) (hc : c ≠ 127#7) :
    perform (.keyDown c) s = .next (tx (0x80#8 ||| c.setWidth 8) s) := if_neg hc

/-- Settles O20: each command is one byte sent. -/
theorem fireAndForgetCommandsComplete : Obligations.FireAndForgetCommandsComplete := by
  intro s hm
  refine ⟨fun p hp => ?_, fun c hc => ?_⟩
  · simp only [List.mem_cons, List.not_mem_nil, or_false] at hp
    rcases hp with rfl | rfl | rfl | rfl
    · exact (exec_wire .wFlashOn s rfl hm).trans (settle_tx _ s hm)
    · exact (exec_wire .wFlashOff s rfl hm).trans (settle_tx _ s hm)
    · exact (exec_wire .wReset s rfl hm).trans (settle_tx _ s hm)
    · exact (exec_wire .wKeyUp s rfl hm).trans (settle_tx _ s hm)
  · rw [exec_wire (.wKeyDown c) s rfl hm, wireOps, wKeyDown,
      thread_cons_busy _ [] s _ (perform_keyDown c s hc) hm]
    rfl

/-! ### Where wire commands stop -/

/-- A micro-step that stops the model stops the list. -/
theorem settle_thread_cons_fault (op : Micro) (ops : List Micro) (s : State) (f : Fault)
    (h : perform op s = .fault f) : settle (thread (op :: ops) s) = .fault f := by
  simp [thread, h, settle]

theorem perform_address_bad (n : Byte) (s : State) (hn : channelExists n = false) :
    perform (.address n) s = .fault .noSuchChannel := by
  simp [perform, hn]

/-- Data that are not 32 bytes, or a checksum that is not theirs (R132, R206). -/
theorem perform_loadFrame_bad (d : List Byte) (c : Byte) (s : State) (h : d.length ≠ 32 ∨ c ≠ checksum d) :
    perform (.loadFrame d c) s = .fault .badWriteFrame := by
  refine if_neg fun hok => ?_
  simp only [Bool.and_eq_true, recordSized, beq_iff_eq, Config.recordBytes] at hok
  rcases h with h | h
  · exact h hok.1
  · exact h hok.2

/-- Settles O23: outside BUSY by `runWire`'s test, in BUSY by the command's first micro-step that may stop. -/
theorem wireCommandsStopOutsideTheirDomain : Obligations.WireCommandsStopOutsideTheirDomain := by
  refine ⟨fun i s hw hne hm => ?_, fun n s hm hn => ⟨?_, fun d hd => ?_⟩, fun n d c s hm h => ?_, fun s hm => ?_⟩
  · have hrun : exec i s = runWire (wireOps i) s := by
      cases i with
      | wBattery => exact absurd rfl hne
      | wReadCh | wWriteCh | wDisable | wEnable | wFlashOn | wFlashOff | wReset | wRemoteStart | wRemoteEnd
      | wKeyDown | wKeyUp => rfl
      | _ => cases hw
    rw [hrun, runWire, if_neg hm]
  · rw [exec_wire (.wReadCh n) s rfl hm]
    exact settle_thread_cons_fault _ _ s _ (perform_address_bad n s hn)
  · rw [exec_wire (.wWriteCh n d (checksum d)) s rfl hm, wireOps, thread_wWriteFrame n d s hm hd]
    exact settle_thread_cons_fault _ _ _ _ (perform_address_bad n _ hn)
  · rw [exec_wire (.wWriteCh n d c) s rfl hm]
    exact settle_thread_cons_fault _ _ s _ (perform_loadFrame_bad d c s h)
  · rw [exec_wire (.wKeyDown 127#7) s rfl hm]
    exact settle_thread_cons_fault _ _ s _ (by rw [perform, if_pos rfl])

end Sys2Proof.Machine

/-! PROOFS. Acceptance by MODE (44_channel_store.md R240) and validation (45_validation.md R280 to R293): the state
each failing check leaves, and that a request which ends in VALIDATION has moved no byte. -/

namespace Sys2Proof.Machine

/-! ### Acceptance -/

/-- A transport request's meaning: the tests of MODE come first (R240). -/
theorem exec_transport (i : Instr) (h : isTransport i = true) :
    ∃ chan ops, ∀ s, exec i s = takeRequest chan (.admitTransport :: ops) s := by
  cases i with
  | get | put | erase | writeNew | update | exportAll | importAll | sendKeys | flashOn | flashOff | resetRadio
  | readBattery => exact ⟨_, _, fun _ => rfl⟩
  | _ => cases h

/-- OPEN when not CLOSED (R329, reason 4). -/
theorem exec_openTransport_bad (s : State) (hr : Ready s) (hm : s.mode = .idle ∨ s.mode = .terminated) :
    exec .openTransport s = .next { illegalFault 4#8 s with
      flags := setBit s.flags 2 false, reqChan := 0#8
      stepPtr := .admitOpen :: ([.localValue, .requireOpen] ++ finishIdle) } := by
  have ha : accepts s = true := by rcases hm with hm | hm <;> simp [accepts, hr.await, hm]
  have hne : s.mode ≠ .closed := by rcases hm with hm | hm <;> simp [hm]
  refine (takeRequest_ok _ _ _ ha hr.unlimited).trans ?_
  rw [thread_cons_faulted _ _ _ _ (by rw [perform, if_neg (by exact hne), illegalRequest_eq]) rfl]
  rfl

/-- Settles O24: in CLOSED and TERMINATED the transport requests' common test, and OPEN's own. -/
theorem acceptanceByMode : Obligations.AcceptanceByMode := by
  intro i s hr
  refine ⟨fun ht hm => ?_, fun ht hm => ?_, fun hm => ⟨_, exec_openTransport_bad s hr hm⟩⟩
  · obtain ⟨chan, ops, he⟩ := exec_transport i ht
    exact ⟨chan, ops, by rw [he, takeRequest_closed chan ops s hr.await hr.unlimited hm, illegalRequest_eq]⟩
  · obtain ⟨chan, ops, he⟩ := exec_transport i ht
    exact ⟨chan, ops, by rw [he, takeRequest_terminated chan ops s hr.await hr.unlimited hm, illegalRequest_eq]⟩

/-! ### Requests that a check ends -/

/-- STEP awaited a request: it is left at what was not run. -/
theorem settle_stopped_await (s : State) (frozen : List Micro) (h : s.stepPtr = []) :
    settle (.stopped s frozen) = .next { s with stepPtr := frozen } := by
  rw [settle_stopped, h, List.append_nil]

/-- A transport request whose pseudocode ends in VALIDATION. -/
theorem runRequest_invalid (chan field n : Byte) (ops frozen : List Micro) (s : State) (hr : Ready s)
    (hm : s.mode = .idle)
    (h : ∀ t : State, t.mode = .busy → thread ops t = .stopped (validationFault field n t) frozen) :
    runRequest chan ops s = .next { validationFault field n s with
      flags := setBit s.flags 2 false, reqChan := chan, stepPtr := frozen } := by
  rw [runRequest_idle chan ops s hr.await hr.unlimited hm, h _ rfl, settle_stopped_await _ _ (by rfl)]
  rfl

/-- A pure request whose pseudocode ends in VALIDATION. -/
theorem runPure_invalid (field : Byte) (ops frozen : List Micro) (s : State) (ha : accepts s = true)
    (hb : s.budget = none)
    (h : ∀ t : State, halted t = false → thread ops t = .stopped (validationFault field 0#8 t) frozen) :
    runPure ops s = .next { validationFault field 0#8 s with
      flags := setBit s.flags 2 false, reqChan := 0#8, stepPtr := frozen } := by
  rw [runPure, takeRequest_ok 0#8 ops s ha hb, h _ (by exact halted_of_accepts s ha),
    settle_stopped_await _ _ (by rfl)]
  rfl

/-- IMPORT_ALL whose entry after valid ones ends in VALIDATION; WS then holds the entries before it. -/
theorem exec_importAll_invalid (before after : List (Byte × RD)) (e : Byte × RD) (field : Byte)
    (frozen : List Micro) (s : State) (hr : Ready s) (hm : s.mode = .idle) (hw : workingSetWf s.ws = true)
    (hv : ImportValid before)
    (h : ∀ t : State, t.mode = .busy → t.ws = importedSet before →
      thread (importEntry e ++ importFrom after) t = .stopped (validationFault field e.1 t) frozen) :
    exec (.importAll (before ++ e :: after)) s = .next { validationFault field e.1 s with
      flags := setBit s.flags 2 (before.any fun e => truncates allFields e.2)
      reqChan := 0#8
      ws := importedSet before
      stepPtr := frozen } := by
  rw [exec_importAll_at before after e s hr hm hw hv, h _ rfl rfl, settle_stopped_await _ _ (by rfl)]
  rfl

theorem channelOk_iff (n : Byte) : channelOk n = true ↔ 1 ≤ n.toNat ∧ n.toNat ≤ 198 := by
  rw [channelOk, channelExists, Bool.and_eq_true, decide_eq_true_iff, decide_eq_true_iff, Config.numChannels]

/-- The test of a channel number (R281). -/
theorem perform_validateChannel (n : Byte) (s : State) :
    perform (.validateChannel n) s =
      .next (if 1 ≤ n.toNat ∧ n.toNat ≤ 198 then s else validationFault 1#8 n s) := by
  refine congrArg Host.Outcome.next ?_
  rcases require_cases (channelOk n) 1#8 n s with ⟨hn, e⟩ | ⟨hn, e⟩
  · rw [e, if_pos ((channelOk_iff n).1 hn)]
  · rw [e, if_neg fun h => by simp [(channelOk_iff n).2 h] at hn, invalid_eq]

/-- Settles O25: the channel test is the first thing of each rule, and of each entry of an import. -/
theorem channelNumberIsValidated : Obligations.ChannelNumberIsValidated := by
  refine ⟨perform_validateChannel, fun n s hr hm hn => ?_⟩
  have hbad : channelOk n = false := by
    rw [Bool.eq_false_iff, Ne, channelOk_iff]
    omega
  have hrun : ∀ (ops : List Micro) (t : State), t.mode = .busy →
      thread (.validateChannel n :: ops) t = .stopped (validationFault 1#8 n t) (.validateChannel n :: ops) :=
    fun ops t _ => thread_validateChannel_bad n ops t hbad
  exact ⟨runRequest_invalid n 1#8 n _ _ s hr hm (hrun _), runRequest_invalid n 1#8 n _ _ s hr hm (hrun _),
    fun _ => runRequest_invalid n 1#8 n _ _ s hr hm (hrun _),
    fun _ _ => runRequest_invalid n 1#8 n _ _ s hr hm (hrun _),
    fun _ _ => runRequest_invalid n 1#8 n _ _ s hr hm (hrun _),
    fun before after rd hw hv =>
      exec_importAll_invalid before after (n, rd) 1#8 _ s hr hm hw hv fun t hb _ => hrun _ t hb⟩

/-- A valid channel number, and a field that fails (R293). -/
theorem thread_validateFields_after (n : Byte) (m : Word16) (rd : RD) (code : Byte) (ops : List Micro) (t : State)
    (ht : t.mode = .busy) (hn : channelOk n = true) (hf : fieldFailure m rd = some code) :
    thread (.validateChannel n :: .validateFields n m rd :: ops) t =
      .stopped (validationFault code n t) (.validateFields n m rd :: ops) := by
  rw [thread_validateChannel_ok n _ t (halted_of_busy t ht) hn, thread_validateFields_bad n m rd code ops t hf]

/-- An entry's channel that WS does not hold passes the test of a repetition (R248). -/
theorem thread_requireAbsent_ok (n : Byte) (ops : List Micro) (t : State) (hh : halted t = false)
    (hw : wsLookup n t.ws = none) : thread (.requireAbsent n :: ops) t = thread ops t :=
  thread_cons_next _ _ _ t (by simp [perform, hw, require]) hh

/-- Settles O27: the field checks come right after those of the channel. -/
theorem failingFieldRaises : Obligations.FailingFieldRaises := by
  refine ⟨fun n m rd code s hr hm hn => ⟨fun hf => ⟨?_, ?_⟩, fun hf => ⟨?_, fun before after hw hv hnew => ?_⟩⟩,
    fun rd code s ha hb hf => ?_⟩
  · exact runRequest_invalid n code n _ _ s hr hm fun t ht => thread_validateFields_after n m rd code _ t ht hn hf
  · exact runRequest_invalid n code n _ _ s hr hm fun t ht => thread_validateFields_after n m rd code _ t ht hn hf
  · exact runRequest_invalid n code n _ _ s hr hm fun t ht =>
      thread_validateFields_after n allFields rd code _ t ht hn hf
  · refine exec_importAll_invalid before after (n, rd) code _ s hr hm hw hv fun t ht hws => ?_
    have hnone : wsLookup n t.ws = none := by rw [hws]; exact wsLookup_importedSet_none n before hnew
    exact (thread_validateChannel_ok n _ t (halted_of_busy t ht) hn).trans <|
      (thread_requireAbsent_ok n _ t (halted_of_busy t ht) hnone).trans <|
        thread_validateFields_bad n allFields rd code _ t hf
  · exact runPure_invalid code _ _ s ha hb fun t _ => thread_validateFields_bad 0#8 allFields rd code _ t hf

/-- Settles O28: WS holds the earlier entry, so the test of a repetition fails. -/
theorem duplicateChannelRaises : Obligations.DuplicateChannelRaises := by
  intro before after n rd s hr hm hw hv hdup
  refine exec_importAll_invalid before after (n, rd) 10#8 _ s hr hm hw hv fun t ht hws => ?_
  have hn : channelOk n = true := by
    obtain ⟨e, he, rfl⟩ := List.mem_map.1 hdup
    exact hv.channels e he
  have hsome : (wsLookup n t.ws).isNone = false := by
    rw [hws]
    simpa using wsLookup_importedSet_some n before hdup
  exact (thread_validateChannel_ok n _ t (halted_of_busy t ht) hn).trans <|
    thread_cons_faulted _ _ _ (validationFault 10#8 n t) (by rw [perform, hsome, ← invalid_eq]; rfl) rfl

/-! ### No byte moved before a VALIDATION fault

The checks of a request stand before its first transport primitive: up to it no micro-step moves a byte, from it
on none raises VALIDATION. -/

/-- The micro-step is a transport primitive (R13). -/
def moves : Micro → Bool
  | .tx _ | .txRec _ | .txCheck | .readAck | .readRecord | .dwell | .keyDown _ => true
  | _ => false

/-- The micro-step is a check that raises VALIDATION (R280). -/
def validates : Micro → Bool
  | .validateChannel _ | .validateFields _ _ _ | .validateKeys _ | .requireAbsent _ | .requireGroups _
  | .requireLetters _ | .requireCount _ => true
  | _ => false

/-- The transcript and the counters of `t` are those of `s`. -/
structure SameTransport (s t : State) : Prop where
  transcript : t.transcript = s.transcript
  txCount : t.txCount = s.txCount
  rxCount : t.rxCount = s.rxCount

theorem SameTransport.trans {s t u : State} (a : SameTransport s t) (b : SameTransport t u) : SameTransport s u :=
  ⟨b.transcript.trans a.transcript, b.txCount.trans a.txCount, b.rxCount.trans a.rxCount⟩

/-- A check passes and nothing happens, or it raises VALIDATION. -/
theorem perform_validates (op : Micro) (s t : State) (hv : validates op = true) (hp : perform op s = .next t) :
    t = s ∨ ∃ field chan, t = invalid field chan s := by
  have of_require : ∀ ok field chan, perform op s = .next (require ok field chan s) →
      t = s ∨ ∃ field chan, t = invalid field chan s := by
    intro ok field chan h
    rw [hp] at h
    cases h
    rcases require_cases ok field chan s with ⟨-, e⟩ | ⟨-, e⟩
    · exact .inl e
    · exact .inr ⟨field, chan, e⟩
  cases op with
  | validateChannel | validateKeys | requireAbsent | requireGroups | requireLetters | requireCount =>
    exact of_require _ _ _ rfl
  | validateFields n m rd =>
    cases hp
    rcases validateFields_cases n m rd s with ⟨code, -, e⟩ | ⟨-, e⟩
    · exact .inr ⟨code, n, e⟩
    · exact .inl e
  | _ => cases hv

/-- What a micro-step that answers `t` does to the transport, and to the fault latched. -/
structure Effects (op : Micro) (s t : State) : Prop where
  still : moves op = false → SameTransport s t
  unvalidated : validates op = false → t.errCode = .validation → s.errCode = .validation

theorem Effects.plain {op : Micro} {s t : State} (same : SameTransport s t := by exact ⟨rfl, rfl, rfl⟩)
    (err : t.errCode = s.errCode := by rfl) : Effects op s t :=
  ⟨fun _ => same, fun _ h => err ▸ h⟩

theorem Effects.moving {op : Micro} {s t : State} (hm : moves op = true) (err : t.errCode = s.errCode := by rfl) :
    Effects op s t :=
  ⟨fun h => absurd h (by simp [hm]), fun _ h => err ▸ h⟩

theorem Effects.fault {op : Micro} {s : State} (c : FaultClass) (i : FaultInfo) (hc : c ≠ .validation) :
    Effects op s (raise c i s) :=
  ⟨fun _ => ⟨rfl, rfl, rfl⟩, fun _ h => absurd h hc⟩

theorem Effects.checkEncoded {op : Micro} (r : Record) (s : State) : Effects op s (checkEncoded r s) := by
  rcases checkEncoded_cases r s with ⟨-, e⟩ | ⟨-, e⟩ <;> rw [e]
  · exact .plain
  · exact .fault _ _ (by decide)

/-- Every micro-step's effects: the primitives move bytes, the checks alone raise VALIDATION. -/
theorem perform_effects (op : Micro) (s t : State) (hp : perform op s = .next t) : Effects op s t := by
  cases op with
  | validateChannel | validateFields | validateKeys | requireAbsent | requireGroups | requireLetters
  | requireCount =>
    refine ⟨fun _ => ?_, fun hv => by cases hv⟩
    rcases perform_validates _ s t rfl hp with rfl | ⟨field, chan, rfl⟩ <;> exact ⟨rfl, rfl, rfl⟩
  | tx | txRec | txCheck | readAck | readRecord | dwell => cases hp; exact .moving rfl
  | keyDown c =>
    dsimp only [perform] at hp
    split at hp <;> cases hp
    exact .moving rfl
  | rejectFrame => cases hp; exact .fault _ _ (by decide)
  | localValue | clearWarning | begin | refuseBattery | sumResponse | takeRecord | radioDisabled | remoteActive
  | sumRecord | encode | encodeMerged | fillEmpty | noteEmpty | setChanCtr | clearEntry | complete | respond
  | respondRecord | emit | setCheck | setLastEmpty => cases hp; exact .plain
  | address | loadFrame =>
    dsimp only [perform] at hp
    split at hp <;> cases hp
    exact .plain
  | exportItem | importSlot | respondGet => cases hp; split <;> exact .plain
  | noteTruncation long => cases hp; cases long <;> exact .plain
  | admitTransport =>
    cases hp
    split_ifs
    · exact .fault _ _ (by decide)
    · exact .fault _ _ (by decide)
    · exact .plain
  | admitOpen =>
    cases hp
    split_ifs
    · exact .plain
    · exact .fault _ _ (by decide)
  | requireSlot n =>
    cases hp
    split_ifs
    · exact .fault _ _ (by decide)
    · exact .plain
  | requireOpen =>
    cases hp
    split_ifs
    · exact .plain
    · exact ⟨fun _ => ⟨rfl, rfl, rfl⟩, fun _ h => by cases h⟩
  | checkAck e =>
    cases hp
    rcases checkAck_cases e s with ⟨-, h⟩ | ⟨-, h⟩ <;> rw [h]
    · exact .plain
    · exact .fault _ _ (by decide)
  | checkLength =>
    cases hp
    rcases checkLength_cases s with ⟨-, h⟩ | ⟨-, -, h⟩ | ⟨-, h⟩ <;> rw [h]
    · exact .fault _ _ (by decide)
    · exact .fault _ _ (by decide)
    · exact .plain
  | checkSum =>
    cases hp
    rcases checkSum_cases s with ⟨-, h⟩ | ⟨-, h⟩ <;> rw [h]
    · exact .plain
    · exact .fault _ _ (by decide)
  | checkEncoded | checkMerged => cases hp; exact .checkEncoded _ s
  | checkSlot n =>
    cases hp
    split
    · exact .checkEncoded _ s
    · exact .plain
  | setEntry n rd =>
    cases hp
    rcases setEntry_cases n rd s with ⟨-, -, h⟩ | ⟨-, h⟩ <;> rw [h] <;> exact .plain
  | batteryExchange => cases hp

/-- A micro-step after which SEQ goes on has raised no VALIDATION. -/
theorem perform_running_errCode (op : Micro) (s t : State) (hp : perform op s = .next t) (hh : halted t = false)
    (he : t.errCode = .validation) : s.errCode = .validation := by
  cases hv : validates op with
  | false => exact (perform_effects op s t hp).unvalidated hv he
  | true =>
    rcases perform_validates op s t hv hp with rfl | ⟨field, chan, rfl⟩
    · exact he
    · cases hh

/-- No check stands after a transport primitive. -/
def checksFirst : List Micro → Bool
  | [] => true
  | op :: ops => !moves op && checksFirst ops || (op :: ops).all fun o => !validates o

theorem checksFirst_of_all (ops : List Micro) (h : ops.all (fun o => !validates o) = true) :
    checksFirst ops = true := by
  cases ops with
  | nil => rfl
  | cons op ops => rw [checksFirst, h, Bool.or_true]

theorem checksFirst_append (as bs : List Micro) (ha : as.all (fun o => !moves o) = true)
    (hb : checksFirst bs = true) : checksFirst (as ++ bs) = true := by
  induction as with
  | nil => exact hb
  | cons op as ih =>
    rw [List.all_cons, Bool.and_eq_true] at ha
    simp [checksFirst, ha.1, ih ha.2]

theorem checksFirst_take (ops : List Micro) (k : Nat) (h : checksFirst ops = true) :
    checksFirst (ops.take k) = true := by
  induction ops generalizing k with
  | nil => simp [checksFirst]
  | cons op ops ih =>
    cases k with
    | zero => rfl
    | succ k =>
      simp only [checksFirst, Bool.or_eq_true, Bool.and_eq_true, List.all_eq_true, List.take_succ_cons] at h ⊢
      rcases h with ⟨hm, hc⟩ | hv
      · exact .inl ⟨hm, ih k hc⟩
      · exact .inr fun o ho => hv o (List.take_subset (k + 1) (op :: ops) (by simpa using ho))

/-- Where no check stands, none raises VALIDATION. -/
theorem settle_thread_unvalidated (ops : List Micro) (s t : State) (hv : ops.all (fun o => !validates o) = true)
    (ht : settle (thread ops s) = .next t) (he : t.errCode = .validation) : s.errCode = .validation := by
  induction ops generalizing s with
  | nil => cases ht; exact he
  | cons op ops ih =>
    rw [List.all_cons, Bool.and_eq_true, Bool.not_eq_true'] at hv
    rcases hp : perform op s with u | f | q <;> simp only [thread, hp] at ht
    · refine (perform_effects op s u hp).unvalidated hv.1 ?_
      split at ht
      · cases ht; exact he
      · exact ih u hv.2 ht
    · cases ht
    · cases ht

/-- A list whose checks stand first, that ends with a new VALIDATION latched, has moved no byte. -/
theorem settle_thread_checksFirst (ops : List Micro) (s t : State) (hc : checksFirst ops = true)
    (ht : settle (thread ops s) = .next t) (he : t.errCode = .validation) (hs : s.errCode ≠ .validation) :
    SameTransport s t := by
  induction ops generalizing s with
  | nil => cases ht; exact ⟨rfl, rfl, rfl⟩
  | cons op ops ih =>
    simp only [checksFirst, Bool.or_eq_true, Bool.and_eq_true, Bool.not_eq_true'] at hc
    rcases hc with ⟨hm, hc⟩ | hv
    · rcases hp : perform op s with u | f | q <;> simp only [thread, hp] at ht
      · refine ((perform_effects op s u hp).still hm).trans ?_
        split at ht
        · cases ht; exact ⟨rfl, rfl, rfl⟩
        · next hh =>
          exact ih u hc ht fun hu => hs (perform_running_errCode op s u hp (by simpa using hh) hu)
      · cases ht
      · cases ht
    · exact absurd (settle_thread_unvalidated (op :: ops) s t hv ht he) hs

/-- A loop whose body has no check, and what follows it. -/
theorem all_flatMap_unvalidated {α : Type} (as : List α) (body : α → List Micro) (ops : List Micro)
    (hb : ∀ a, (body a).all (fun o => !validates o) = true) (ho : ops.all (fun o => !validates o) = true) :
    (as.flatMap body ++ ops).all (fun o => !validates o) = true := by
  rw [List.all_append, List.all_flatMap, ho]
  simp [hb]

theorem checksFirst_importOps (entries : List (Byte × RD)) : checksFirst (importOps entries) = true := by
  have hcheck : (importCheck entries).all (fun o => !moves o) = true := by
    simp [importCheck, importEntry, validateOps, List.all_flatMap, moves]
  have hwrite := all_flatMap_unvalidated channels importChannel (wReset ++ finishTerminated) (fun _ => rfl) rfl
  rw [importOps, List.append_assoc, List.append_assoc]
  exact checksFirst_append _ _ hcheck (checksFirst_of_all _ hwrite)

theorem checksFirst_exportOps : checksFirst exportOps = true :=
  checksFirst_of_all _ (all_flatMap_unvalidated channels exportChannel finishIdle (fun _ => rfl) rfl)

theorem checksFirst_sendKeysOps (codes : List Byte) : checksFirst (sendKeysOps codes) = true := by
  have hkeys : (keySession codes ++ finishIdle).all (fun o => !validates o) = true := by
    unfold keySession
    split
    · rfl
    · rw [List.append_assoc, List.append_assoc]
      exact all_flatMap_unvalidated codes (fun c => keyPress (c.setWidth 7)) _ (fun _ => rfl) rfl
  rw [sendKeysOps, List.append_assoc]
  exact checksFirst_append _ _ rfl (checksFirst_of_all _ hkeys)

/-- Every request's checks stand before its first transport primitive. -/
theorem exec_request_checksFirst (i : Instr) (h : isWire i = false) :
    ∃ chan ops, (∀ s, exec i s = takeRequest chan ops s) ∧ checksFirst ops = true := by
  cases i with
  | wReadCh | wWriteCh | wBattery | wDisable | wEnable | wFlashOn | wFlashOff | wReset | wRemoteStart | wRemoteEnd
  | wKeyDown | wKeyUp => cases h
  | importAll entries =>
    exact ⟨_, _, fun _ => rfl, checksFirst_append [.admitTransport, .begin] _ rfl (checksFirst_importOps entries)⟩
  | exportAll =>
    exact ⟨_, _, fun _ => rfl, checksFirst_append [.admitTransport, .begin] _ rfl checksFirst_exportOps⟩
  | sendKeys codes =>
    exact ⟨_, _, fun _ => rfl, checksFirst_append [.admitTransport, .begin] _ rfl (checksFirst_sendKeysOps codes)⟩
  | _ => exact ⟨_, _, fun _ => rfl, rfl⟩

/-- Settles O29: a request's checks stand first, whatever the limit; no wire command runs where one is accepted. -/
theorem validationFaultMovesNoByte : Obligations.ValidationFaultMovesNoByte := by
  intro i s t ha hs hx he
  cases hw : isWire i with
  | true =>
    rcases exec_wire_cases i s hw with e | e <;> rw [e] at hx
    · cases hx
    · have hm : s.mode ≠ .busy := fun hm => by simp [accepts, hm] at ha
      rw [runWire, if_neg hm] at hx
      cases hx
  | false =>
    obtain ⟨chan, ops, hexec, hc⟩ := exec_request_checksFirst i hw
    have hall : checksFirst (acceptOps ++ ops) = true := checksFirst_append _ _ rfl hc
    rw [hexec, takeRequest, if_pos ha] at hx
    have hsame : SameTransport s t := by
      cases hb : s.budget with
      | none =>
        rw [advance_unlimited _ (by exact hb)] at hx
        obtain ⟨h1, h2, h3⟩ := settle_thread_checksFirst _ _ t hall hx he (by exact hs)
        exact ⟨h1, h2, h3⟩
      | some k =>
        rw [advance_limited _ k (by exact hb)] at hx
        obtain ⟨h1, h2, h3⟩ := settle_thread_checksFirst _ _ t (checksFirst_take _ k hall) hx he (by exact hs)
        exact ⟨h1, h2, h3⟩
    exact ⟨hsame.transcript, hsame.txCount, hsame.rxCount⟩

end Sys2Proof.Machine

/-! PROOFS. The single-channel requests (44_channel_store.md R242 to R246): each is the checks of its operands, a read
bracket, an encoding or both, and a write bracket, whose effects `thread_bracketRead` and `thread_bracketWrite` say;
what is said here is what a request leaves of the state it was accepted in. -/

namespace Sys2Proof.Machine

/-! ### The state a transport request runs from -/

/-- `s` once a transport request with channel operand `chan` is accepted (R240). -/
def accepted (chan : Byte) (s : State) : State :=
  { s with mode := .busy, flags := setBit s.flags 2 false, reqChan := chan, stepPtr := [] }

theorem runRequest_accepted (chan : Byte) (ops : List Micro) (s : State) (hr : Ready s) (hm : s.mode = .idle) :
    runRequest chan ops s = settle (thread ops (accepted chan s)) :=
  runRequest_idle chan ops s hr.await hr.unlimited hm

/-- The state at rest again: MODE IDLE and STEP at "await request", as it was. -/
theorem Ready.restored {s : State} (hr : Ready s) (hm : s.mode = .idle) :
    { s with mode := .idle, stepPtr := [] } = s := by
  rw [← hm, ← hr.await]

theorem peerAfter_add (j k : Nat) (s : State) : peerAfter k (peerAfter j s) = peerAfter (j + k) s := by
  induction j generalizing s with
  | zero => rw [peerAfter_zero, Nat.zero_add]
  | succ j ih => rw [peerAfter_succ, ih, Nat.succ_add, peerAfter_succ]

/-- The status byte tells WARN_NAME_TRUNC, bit 2 of FLAGS (R97). -/
theorem statusByte_eq (s : State) (b : Bool) (h : s.flags.getLsbD 2 = b) :
    statusByte s = if b then 0x01#8 else 0x00#8 := by
  rw [statusByte, readFlag, ← h]
  rfl

/-- A write of another bit leaves bit 2. -/
theorem getLsbD_two_setBit (v : Byte) (i : Nat) (b : Bool) (h : i ≠ 2) :
    (setBit v i b).getLsbD 2 = v.getLsbD 2 := by
  rw [getLsbD_setBit v i 2 b (by decide), if_neg h]

theorem getLsbD_two_setBit_same (v : Byte) (b : Bool) : (setBit v 2 b).getLsbD 2 = b := by
  rw [getLsbD_setBit v 2 2 b (by decide), if_pos rfl]

/-! ### Slots -/

theorem isEmptyRecord_emptySlot : isEmptyRecord (List.replicate 32 0xFF#8) = true := by decide

/-- A slot with a byte other than 0xFF is not empty (R170). -/
theorem isEmptyRecord_of_mem (d : List Byte) (h : ∃ b ∈ d, b ≠ 0xFF#8) : isEmptyRecord d = false := by
  obtain ⟨b, hb, hne⟩ := h
  refine Bool.eq_false_iff.2 fun he => hne ?_
  simp only [isEmptyRecord, Bool.and_eq_true, List.all_eq_true, beq_iff_eq] at he
  exact he.2 b hb

theorem checksum_emptySlot : checksum (List.replicate 32 0xFF#8) = 0xE0#8 := by
  obtain ⟨-, -, -, -, -, h⟩ := checksumIsTheSumModulo256
  exact h

theorem recordBytes_of_ofBytes (s : State) (d : List Byte) (hb : s.recBuf = Memory.ofBytes d) (hd : d.length = 32) :
    recordBytes s = d := by
  rw [recordBytes, hb, Memory.bytes_ofBytes d hd]

/-- A read bracket with the empty test: `BRACKET_READ(n); e <- is_empty(REC_BUF); FLAGS.LAST_EMPTY <- e` (R242). -/
theorem thread_readSlot (n : Byte) (d : List Byte) (ops : List Micro) (s : State) (hm : s.mode = .busy)
    (hn : channelOk n = true) (hd : d.length = 32) (hp : Answered (readReads d) s) :
    thread (bracketRead n ++ (emptyOps ++ ops)) s = thread ops { peerAfter 3 s with
      flags := setBit (setBit s.flags 0 false) 3 (isEmptyRecord d)
      addrReg := n
      ckReg := checksum d
      recBuf := Memory.ofBytes d
      transcript := s.transcript ++ readEvents n d
      txCount := s.txCount + 4#32
      rxCount := s.rxCount + 35#32 } := by
  rw [thread_bracketRead n d _ s hm hn hd hp, thread_emptyOps d ops _ (by exact hm) rfl hd]

/-- A write bracket and the request's end, REC_BUF holding `d` (R217, R241). -/
theorem thread_writeSlot (n : Byte) (d : List Byte) (s : State) (hm : s.mode = .busy) (hn : channelOk n = true)
    (hb : s.recBuf = Memory.ofBytes d) (hd : d.length = 32) (hp : Answered writeReads s) :
    thread (bracketWrite n ++ finishIdle) s = .ran { peerAfter 3 s with
      mode := .idle
      flags := setBit s.flags 0 false
      addrReg := n
      ckReg := checksum d
      transcript := s.transcript ++ writeEvents n d
      txCount := s.txCount + 37#32
      rxCount := s.rxCount + 3#32
      responses := s.responses ++ [[statusByte s]] } := by
  rw [thread_bracketWrite n d _ s hm hn (recordBytes_of_ofBytes s d hb hd) hp, thread_finishIdle,
    statusByte_eq _ _ (by exact getLsbD_two_setBit s.flags 0 false (by decide)), ← statusByte_eq s _ rfl]
  rfl

/-! ### GET -/

/-- GET up to its answer (R242). -/
theorem exec_get (n : Byte) (d : List Byte) (s : State) (hr : Ready s) (hm : s.mode = .idle) (hn : channelOk n = true)
    (hd : d.length = 32) (hp : Answered (readReads d) s) :
    exec (.get n) s = settle (thread [.complete false, .respondGet] { peerAfter 3 (accepted n s) with
      flags := setBit (setBit (setBit s.flags 2 false) 0 false) 3 (isEmptyRecord d)
      addrReg := n
      ckReg := checksum d
      recBuf := Memory.ofBytes d
      transcript := s.transcript ++ readEvents n d
      txCount := s.txCount + 4#32
      rxCount := s.rxCount + 35#32 }) := by
  refine (runRequest_accepted n (getOps n) s hr hm).trans ?_
  rw [getOps, List.append_assoc, List.append_assoc, List.singleton_append,
    thread_validateChannel_ok n _ _ rfl hn, thread_readSlot n d _ _ rfl hn hd (by exact hp)]
  rfl

/-- GET's answer, by the empty test (R242). -/
theorem thread_respondGet (d : List Byte) (s : State) (hb : s.recBuf = Memory.ofBytes d) (hd : d.length = 32)
    (hw : s.flags.getLsbD 2 = false) :
    thread [.complete false, .respondGet] s = .ran { s with
      mode := .idle
      responses := s.responses ++
        [if isEmptyRecord d then [0x00#8, 0x01#8] else 0x00#8 :: 0x00#8 :: recordRD (rdecode d)] } := by
  rw [thread_cons_next (.complete false) _ s { s with mode := .idle } rfl rfl,
    thread_cons_next .respondGet [] _ _ rfl (by split <;> rfl), recordBytes_of_ofBytes _ d (by exact hb) hd,
    statusByte_eq _ false (by exact hw)]
  cases isEmptyRecord d <;> rfl

/-- The flags of a read in a request: bit 2 stands as acceptance left it. -/
theorem getLsbD_two_readFlags (v : Byte) (b e : Bool) :
    (setBit (setBit (setBit v 2 b) 0 false) 3 e).getLsbD 2 = b := by
  rw [getLsbD_two_setBit _ 3 e (by decide), getLsbD_two_setBit _ 0 false (by decide), getLsbD_two_setBit_same]

/-- Settles O30: a slot with a byte other than 0xFF answers its record. -/
theorem getReturnsTheRecord : Obligations.GetReturnsTheRecord := by
  intro n d s hr hm hn hd hne hp
  rw [exec_get n d s hr hm hn hd hp, isEmptyRecord_of_mem d hne,
    thread_respondGet d _ (by rfl) hd (by exact getLsbD_two_readFlags s.flags false false), isEmptyRecord_of_mem d hne]
  conv_rhs => rw [← hr.restored hm]
  rfl

/-- Settles O31: a slot of 32 bytes 0xFF answers that it is empty. -/
theorem getReportsAnEmptySlot : Obligations.GetReportsAnEmptySlot := by
  intro n s hr hm hn hp
  rw [exec_get n _ s hr hm hn rfl hp, isEmptyRecord_emptySlot, checksum_emptySlot,
    thread_respondGet (List.replicate 32 0xFF#8) _ (by rfl) rfl (by exact getLsbD_two_readFlags s.flags false true),
    isEmptyRecord_emptySlot]
  conv_rhs => rw [← hr.restored hm]
  rfl

/-! ### PUT, ERASE and WRITE_NEW -/

/-- A write of an encoded record, from the request's checks on: PUT's pseudocode (R243), and WRITE_NEW's (R245). -/
theorem runRequest_writeRecord (n : Byte) (m : Word16) (rd : RD) (r : Record) (s : State) (hr : Ready s)
    (hm : s.mode = .idle) (hn : channelOk n = true) (hf : fieldFailure m rd = none) (hlen : r.name.length ≤ 12)
    (hp : Answered writeReads s) :
    runRequest n ([.validateChannel n] ++ validateOps n m rd ++ [.localValue] ++ encodeOps r ++ bracketWrite n ++
        finishIdle) s = .next { peerAfter 3 s with
      flags := setBit (setBit s.flags 2 (truncates m rd)) 0 false
      reqChan := n
      addrReg := n
      ckReg := checksum (rencode r)
      recBuf := Memory.ofBytes (rencode r)
      transcript := s.transcript ++ writeEvents n (rencode r)
      txCount := s.txCount + 37#32
      rxCount := s.rxCount + 3#32
      responses := s.responses ++ [[if truncates m rd then 0x01#8 else 0x00#8]] } := by
  rw [runRequest_accepted _ _ s hr hm]
  simp only [List.append_assoc, List.cons_append, List.nil_append]
  rw [thread_validateChannel_ok n _ _ rfl hn, thread_validateOps_ok n m rd _ _ rfl hf,
    noteTruncation_accepted (truncates m rd) _ s.flags rfl, thread_localValue _ _ rfl,
    thread_encodeOps r _ _ rfl hlen,
    thread_writeSlot n (rencode r) _ rfl hn rfl (rencode_length r hlen) (by exact hp),
    statusByte_eq _ (truncates m rd) (by exact getLsbD_two_setBit_same _ _)]
  conv_rhs => rw [← hr.restored hm]
  rfl

theorem truncates_allFields (rd : RD) : truncates allFields rd = decide (12 < rd.name.length) := rfl

/-- Settles O32: the record of the descriptor, whose name is cut to fit. -/
theorem putWritesTheRecord : Obligations.PutWritesTheRecord := by
  intro n rd s hr hm hn hf hp
  have h := runRequest_writeRecord n allFields rd (recordOf rd) s hr hm hn hf (recordOf_name_length rd) hp
  simp only [truncates_allFields, decide_eq_true_eq] at h
  exact h

/-- Settles O33: the erase pattern in the write bracket. -/
theorem eraseWritesTheErasePattern : Obligations.EraseWritesTheErasePattern := by
  intro n s hr hm hn hp
  refine (runRequest_accepted n (eraseOps n) s hr hm).trans ?_
  simp only [eraseOps, List.cons_append, List.nil_append]
  rw [thread_validateChannel_ok n _ _ rfl hn,
    thread_cons_busy .fillEmpty _ _ (loadRecord emptySlot (accepted n s)) rfl rfl,
    thread_writeSlot n emptySlot _ rfl hn rfl rfl (by exact hp),
    statusByte_eq _ false (by exact getLsbD_two_setBit_same _ _),
    show checksum emptySlot = 0xE0#8 from checksum_emptySlot]
  conv_rhs => rw [← hr.restored hm]
  rfl

/-- The name of the default record fits: it is empty (R172). -/
theorem defaultRecord_name_length : defaultRecord.name.length ≤ 12 := Nat.zero_le _

/-- Of a modulation in its domain the code is the value itself (R107, R288). -/
theorem modulationCode_recordOf (rd : RD) (h : rd.modulation.toNat ≤ 3) :
    (modulationCode (recordOf rd).modulation).toNat = rd.modulation.toNat := by
  rw [recordOf, modulationCode_modulationOf, BitVec.toNat_setWidth]
  omega

/-- Of a bandwidth in its domain the code is the value itself (R107, R289). -/
theorem bandwidthCode_recordOf (rd : RD) (h : rd.bandwidth.toNat ≤ 1) :
    (bandwidthCode (recordOf rd).bandwidth).toNat = rd.bandwidth.toNat := by
  have hb : rd.bandwidth = 0#8 ∨ rd.bandwidth = 1#8 := by bv_omega
  rw [recordOf, bandwidthCode_bandwidthOf]
  rcases hb with hb | hb <;> rw [hb] <;> rfl

/-- What the default record encodes to (R172), field by field. -/
theorem rencode_defaultRecord : rencode defaultRecord =
    [0x18#8, 0x2D#8, 0xDD#8, 0x00#8, 0x18#8, 0x2D#8, 0xDD#8, 0x00#8, 0x00#8, 0x00#8, 0x00#8, 0x00#8, 0x00#8, 0x00#8,
      0x00#8, 0xF9#8, 0xFF#8, 0xFF#8, 0xFF#8, 0xFF#8] ++ List.replicate 12 0x00#8 := by
  decide

/-- A coded field of a merge, mask bit by mask bit. -/
theorem choose_code {α β : Type} (b : Bool) (code : α → β) (new old : α) :
    code (choose b new old) = if b = true then code new else code old := by
  cases b <;> rfl

/-- Settles O34: the default record's bytes, the merge field by field, and the write of the merged record. -/
theorem writeNewMergesIntoTheDefaults : Obligations.WriteNewMergesIntoTheDefaults := by
  refine ⟨⟨rencode_defaultRecord, by rw [rencode_defaultRecord]; decide⟩, fun base m rd => ?_,
    fun n m rd s hr hm hn hf hp => ?_⟩
  · refine ⟨rfl, rfl, rfl, rfl, rfl, rfl, fun h => ?_, fun h => ?_, fun h => ?_, fun h => ?_, rfl⟩
    · rw [← modulationCode_recordOf rd h]
      exact choose_code _ (fun x => (modulationCode x).toNat) _ _
    · rw [← bandwidthCode_recordOf rd h]
      exact choose_code _ (fun x => (bandwidthCode x).toNat) _ _
    · exact if_neg (by rw [supplied, h]; decide)
    · exact if_neg (by rw [supplied, h]; decide)
  · exact runRequest_writeRecord n m rd _ s hr hm hn hf
      (merge_name_length defaultRecord m rd defaultRecord_name_length) hp

/-! ### UPDATE -/

/-- What UPDATE does once the slot is read: its test, the merge, and the write bracket (R246). -/
def updateRest (n : Byte) (m : Word16) (rd : RD) : List Micro :=
  [.requireSlot n, .localValue, .localValue, .encodeMerged m rd, .checkMerged m rd] ++ bracketWrite n ++ finishIdle

theorem updateOps_eq (n : Byte) (m : Word16) (rd : RD) :
    updateOps n m rd =
      .validateChannel n :: (validateOps n m rd ++ (bracketRead n ++ (emptyOps ++ updateRest n m rd))) := by
  simp only [updateOps, updateRest, List.append_assoc, List.cons_append, List.nil_append]

/-- UPDATE up to its test of the slot read (R246). -/
theorem exec_update (n : Byte) (m : Word16) (rd : RD) (d : List Byte) (s : State) (hr : Ready s) (hm : s.mode = .idle)
    (hn : channelOk n = true) (hf : fieldFailure m rd = none) (hd : d.length = 32) (hp : Answered (readReads d) s) :
    exec (.update n m rd) s = settle (thread (updateRest n m rd) { peerAfter 3 (accepted n s) with
        flags := setBit (setBit (setBit s.flags 2 (truncates m rd)) 0 false) 3 (isEmptyRecord d)
        addrReg := n
        ckReg := checksum d
        recBuf := Memory.ofBytes d
        transcript := s.transcript ++ readEvents n d
        txCount := s.txCount + 4#32
        rxCount := s.rxCount + 35#32 }) := by
  refine (runRequest_accepted n (updateOps n m rd) s hr hm).trans ?_
  rw [updateOps_eq, thread_validateChannel_ok n _ _ rfl hn, thread_validateOps_ok n m rd _ _ rfl hf,
    noteTruncation_accepted (truncates m rd) _ s.flags rfl, thread_readSlot n d _ _ rfl hn hd (by exact hp)]
  rfl

/-- Settles O36: the test of the slot raises, the read bracket being complete. -/
theorem updateOfAnEmptySlotFaults : Obligations.UpdateOfAnEmptySlotFaults := by
  intro n m rd s hr hm hn hf hp
  have hempty : ∀ t : State, t.recBuf = Memory.ofBytes (List.replicate 32 0xFF#8) →
      perform (.requireSlot n) t = .next (raise .updateEmptySlot { chan := n } t) := fun t ht => by
    rw [perform, recordBytes_of_ofBytes t _ ht rfl, if_pos isEmptyRecord_emptySlot]
  rw [exec_update n m rd _ s hr hm hn hf rfl hp, isEmptyRecord_emptySlot, checksum_emptySlot]
  refine (congrArg settle (thread_cons_faulted (.requireSlot n) _ _ _ (hempty _ rfl) rfl)).trans ?_
  rw [settle_stopped_await _ _ (by rfl), faultEntryLatches.1]
  rfl

/-- The merge into the record read, encoded and its length checked (R165, R169, R246). -/
theorem thread_encodeMerged (m : Word16) (rd : RD) (d : List Byte) (ops : List Micro) (s : State)
    (hm : s.mode = .busy) (hb : s.recBuf = Memory.ofBytes d) (hd : d.length = 32) :
    thread (.encodeMerged m rd :: .checkMerged m rd :: ops) s =
      thread ops (loadRecord (rencode (merge (rdecode d) m rd)) s) := by
  have hfits : ∀ e, (merge (rdecode e) m rd).name.length ≤ 12 := fun e =>
    merge_name_length _ m rd (rdecode_name_length e)
  rw [thread_cons_busy (.encodeMerged m rd) _ s _
      (by rw [perform, recordBytes_of_ofBytes s d hb hd, storeEncoded_ok _ _ (hfits d)]) (by exact hm),
    thread_cons_busy (.checkMerged m rd) ops _ _ (by rw [perform, checkEncoded_ok _ _ (hfits _)]) (by exact hm)]

/-- The flags of UPDATE: the write bracket leaves RADIO_DISABLED as the read bracket did. -/
theorem updateFlags_eq (v : Byte) (w e : Bool) :
    setBit (setBit (setBit (setBit v 2 w) 0 false) 3 e) 0 false = setBit (setBit (setBit v 2 w) 3 e) 0 false := by
  rw [setBit_comm _ 3 0 e false (by decide), setBit_setBit, setBit_comm _ 0 3 false e (by decide)]

/-- Settles O35: the read bracket, the merge, and the write bracket. -/
theorem updateMergesIntoTheRecordRead : Obligations.UpdateMergesIntoTheRecordRead := by
  intro n m rd d s hr hm hn hf hd hne hp
  obtain ⟨hread, hwrite⟩ := (answered_append (readReads d) writeReads s).1 hp
  have hlen : (rencode (merge (rdecode d) m rd)).length = 32 :=
    rencode_length _ (merge_name_length _ m rd (rdecode_name_length d))
  have hslot : ∀ t : State, t.recBuf = Memory.ofBytes d → perform (.requireSlot n) t = .next t := fun t ht => by
    rw [perform, recordBytes_of_ofBytes t d ht hd, if_neg (by rw [isEmptyRecord_of_mem d hne]; decide)]
  have hrun : ∀ t : State, t.mode = .busy → t.recBuf = Memory.ofBytes d →
      thread (updateRest n m rd) t =
        thread (bracketWrite n ++ finishIdle) (loadRecord (rencode (merge (rdecode d) m rd)) t) := by
    intro t ht hb
    rw [updateRest, List.append_assoc]
    simp only [List.cons_append, List.nil_append]
    rw [thread_cons_busy (.requireSlot n) _ t t (hslot t hb) ht, thread_localValue _ t (halted_of_busy t ht),
      thread_localValue _ t (halted_of_busy t ht), thread_encodeMerged m rd d _ t ht hb hd]
  rw [exec_update n m rd d s hr hm hn hf hd hread, hrun _ (by rfl) (by rfl),
    thread_writeSlot n _ _ (by rfl) hn (by rfl) hlen (by exact hwrite), isEmptyRecord_of_mem d hne,
    statusByte_eq _ (truncates m rd) (by exact getLsbD_two_readFlags s.flags _ false)]
  conv_rhs => rw [← hr.restored hm, show 6 = 3 + 3 from rfl, ← peerAfter_add 3 3, ← updateFlags_eq,
    show (41#32) = 4#32 + 37#32 from rfl, show (38#32) = 35#32 + 3#32 from rfl, ← BitVec.add_assoc, ← BitVec.add_assoc]
  rfl

end Sys2Proof.Machine

/-! PROOFS. The bulk requests (44_channel_store.md R247 to R250). A loop over channels leaves what its channels
together add to the logs and the counters, and what its last one writes to the registers; the closed form is proved
once for each loop, a channel at a time, and the 198 channels are the loop's 197 and channel 198. -/

namespace Sys2Proof.Machine

/-- The channels before the last. -/
def earlierChannels : List Byte := (List.range 197).map fun i => BitVec.ofNat 8 (i + 1)

theorem channels_eq_concat : channels = earlierChannels ++ [198#8] := by
  rw [channels, Config.numChannels, List.range_succ, List.map_append]
  rfl

theorem earlierChannels_length : earlierChannels.length = 197 := by
  rw [earlierChannels, List.length_map, List.length_range]

theorem channelOk_of_mem_channels (n : Byte) (h : n ∈ earlierChannels ++ [198#8]) : channelOk n = true := by
  rw [← channels_eq_concat] at h
  obtain ⟨i, hi, rfl⟩ := List.mem_map.1 h
  have hlt : i < 198 := List.mem_range.1 hi
  rw [channelOk_iff, BitVec.toNat_ofNat]
  omega

/-- The answers to a loop's reads are those to the reads of its beginning and, these used up, of its last turn. -/
theorem answered_flatMap_concat {α : Type} (ms : List α) (m : α) (reads : α → List (Nat × List Byte)) (k : Nat)
    (hk : ∀ a, (reads a).length = k) (s : State) :
    Answered ((ms ++ [m]).flatMap reads) s ↔
      Answered (ms.flatMap reads) s ∧ Answered (reads m) (peerAfter (k * ms.length) s) := by
  have hlen : (ms.flatMap reads).length = k * ms.length := by
    simp [List.length_flatMap, hk, Nat.mul_comm]
  rw [List.flatMap_append, answered_append, hlen]
  simp

/-! ### EXPORT_ALL -/

/-- What the loop delivers of the channels `ns` (R247). -/
def exportedItems (slot : Byte → List Byte) (ns : List Byte) : List (List Byte) :=
  (ns.filter fun n => !isEmptyRecord (slot n)).map fun n => 0xA0#8 :: n :: recordRD (rdecode (slot n))

theorem exportItems_eq (slot : Byte → List Byte) : exportItems slot = exportedItems slot channels := rfl

theorem exportedItems_concat (slot : Byte → List Byte) (ns : List Byte) (n : Byte) :
    exportedItems slot (ns ++ [n]) = exportedItems slot ns ++
      if isEmptyRecord (slot n) then [] else [0xA0#8 :: n :: recordRD (rdecode (slot n))] := by
  rw [exportedItems, List.filter_append, List.map_append, ← exportedItems]
  cases h : isEmptyRecord (slot n) <;> simp [h]

/-- The state once the loop has gone through the channels `ns` and then `n`. -/
def exported (slot : Byte → List Byte) (ns : List Byte) (n : Byte) (s : State) : State :=
  { peerAfter (3 * (ns.length + 1)) s with
    flags := setBit (setBit s.flags 0 false) 3 (isEmptyRecord (slot n))
    chanCtr := n
    reqChan := n
    addrReg := n
    ckReg := checksum (slot n)
    recBuf := Memory.ofBytes (slot n)
    transcript := s.transcript ++ (ns ++ [n]).flatMap fun n => readEvents n (slot n)
    txCount := s.txCount + BitVec.ofNat 32 (4 * (ns.length + 1))
    rxCount := s.rxCount + BitVec.ofNat 32 (35 * (ns.length + 1))
    responses := s.responses ++ exportedItems slot (ns ++ [n]) }

/-- One channel (R247). -/
theorem thread_exportChannel (slot : Byte → List Byte) (n : Byte) (ops : List Micro) (s : State) (hm : s.mode = .busy)
    (hn : channelOk n = true) (hd : (slot n).length = 32) (hp : Answered (readReads (slot n)) s) :
    thread (exportChannel n ++ ops) s = thread ops (exported slot [] n s) := by
  have hitem : ∀ t : State, t.mode = .busy → t.recBuf = Memory.ofBytes (slot n) →
      thread (.exportItem :: ops) t = thread ops { t with
        responses := t.responses ++
          if isEmptyRecord (slot n) then [] else [0xA0#8 :: t.chanCtr :: recordRD (rdecode (slot n))] } := by
    intro t ht hb
    refine thread_cons_busy .exportItem ops t _ ?_ ht
    rw [perform, recordBytes_of_ofBytes t _ hb hd]
    cases isEmptyRecord (slot n)
    · rfl
    · simp
  simp only [exportChannel, List.append_assoc, List.cons_append, List.nil_append]
  rw [thread_cons_busy (.setChanCtr n) _ s { s with chanCtr := n, reqChan := n } rfl hm,
    thread_readSlot n (slot n) _ _ (by exact hm) hn hd (by exact hp), hitem _ (by exact hm) (by rfl)]
  rw [exported, exportedItems_concat]
  rfl

/-- A channel after others. -/
theorem exported_exported (slot : Byte → List Byte) (ms : List Byte) (m n : Byte) (s : State) :
    exported slot [] n (exported slot ms m s) = exported slot (ms ++ [m]) n s := by
  have hflags : ∀ (v : Byte) (a b : Bool), setBit (setBit (setBit (setBit v 0 false) 3 a) 0 false) 3 b =
      setBit (setBit v 0 false) 3 b := fun v a b => by
    rw [setBit_comm _ 3 0 a false (by decide), setBit_setBit, setBit_setBit]
  have hcount : ∀ (v : Word32) (k : Nat), v + BitVec.ofNat 32 (k * ((ms ++ [m]).length + 1)) =
      v + BitVec.ofNat 32 (k * (ms.length + 1)) + BitVec.ofNat 32 (k * (0 + 1)) := fun v k => by
    rw [BitVec.add_assoc, ← BitVec.ofNat_add, List.length_append, List.length_singleton, ← Nat.mul_add]
  have hpeer : peerAfter (3 * ((ms ++ [m]).length + 1)) s =
      peerAfter (3 * (0 + 1)) (peerAfter (3 * (ms.length + 1)) s) := by
    rw [peerAfter_add, ← Nat.mul_add, List.length_append, List.length_singleton]
  conv_rhs => rw [exported, hpeer, hcount, hcount, exportedItems_concat, List.flatMap_append, ← List.append_assoc,
    ← List.append_assoc, ← hflags _ (isEmptyRecord (slot m))]
  rw [exported, exportedItems_concat]
  rfl

/-- The loop over the channels `ns` and then `n` (R247). -/
theorem thread_exportChannels (slot : Byte → List Byte) (ns : List Byte) (n : Byte) (ops : List Micro) (s : State)
    (hm : s.mode = .busy) (hn : ∀ k ∈ ns ++ [n], channelOk k = true) (hd : ∀ k, (slot k).length = 32)
    (hp : Answered ((ns ++ [n]).flatMap fun k => readReads (slot k)) s) :
    thread ((ns ++ [n]).flatMap exportChannel ++ ops) s = thread ops (exported slot ns n s) := by
  induction ns using List.reverseRecOn generalizing n ops with
  | nil =>
    rw [List.nil_append, List.flatMap_singleton] at hp ⊢
    exact thread_exportChannel slot n ops s hm (hn n (by simp)) (hd n) hp
  | append_singleton ms m ih =>
    obtain ⟨hms, hlast⟩ := (answered_flatMap_concat _ n _ 3 (fun _ => rfl) s).1 hp
    rw [List.length_append, List.length_singleton] at hlast
    rw [List.flatMap_append, List.flatMap_singleton, List.append_assoc,
      ih m _ (fun k hk => hn k (List.mem_append_left _ hk)) hms,
      thread_exportChannel slot n ops _ (by exact hm) (hn n (by simp)) (hd n)
        (by exact hlast), exported_exported]

/-- Settles O37: the loop over the 198 channels, and the request's end. -/
theorem exportAllDeliversEveryProgrammedChannel : Obligations.ExportAllDeliversEveryProgrammedChannel := by
  intro slot s hr hm hd hp
  refine (runRequest_accepted 0#8 exportOps s hr hm).trans ?_
  rw [channels_eq_concat] at hp
  rw [exportOps, exportItems_eq, channels_eq_concat,
    thread_exportChannels slot earlierChannels 198#8 _ _ rfl channelOk_of_mem_channels hd
      ((answered_congr _ s (accepted 0#8 s) rfl rfl).2 hp), thread_finishIdle,
    statusByte_eq _ false (by exact getLsbD_two_readFlags s.flags false _), exported, earlierChannels_length]
  conv_rhs => rw [← hr.restored hm]
  rfl

/-! ### IMPORT_ALL -/

theorem importedSet_concat (es : List (Byte × RD)) (e : Byte × RD) :
    importedSet (es ++ [e]) = wsInsert e.1 (recordOf e.2) (importedSet es) := by
  rw [importedSet, List.foldl_append]
  rfl

/-- Of a channel that one entry names, WS holds that entry's record (R248). -/
theorem wsLookup_importedSet_of_mem (es : List (Byte × RD)) (hd : (es.map Prod.fst).Nodup) (e : Byte × RD)
    (he : e ∈ es) : wsLookup e.1 (importedSet es) = some (recordOf e.2) := by
  induction es using List.reverseRecOn with
  | nil => cases he
  | append_singleton es x ih =>
    rw [List.map_append, List.nodup_append] at hd
    obtain ⟨hes, -, hnew⟩ := hd
    rw [importedSet_concat]
    rcases List.mem_append.1 he with he | he
    · rw [wsLookup_wsInsert_other _ _ _ _ (hnew _ (List.mem_map_of_mem he) _ (by simp))]
      exact ih hes he
    · rw [List.mem_singleton.1 he, wsLookup_wsInsert_same]

/-- What a slot gets whose channel an entry names (R249). -/
theorem slotBytes_importedSet_of_mem (es : List (Byte × RD)) (hv : ImportValid es) (e : Byte × RD) (he : e ∈ es) :
    slotBytes (importedSet es) e.1 = rencode (recordOf e.2) := by
  rw [slotBytes, wsLookup_importedSet_of_mem es hv.distinct e he]

/-- What every other slot gets (R249). -/
theorem slotBytes_importedSet_of_notMem (es : List (Byte × RD)) (n : Byte) (hn : n ∉ es.map Prod.fst) :
    slotBytes (importedSet es) n = List.replicate 32 0xFF#8 := by
  rw [slotBytes, wsLookup_importedSet_none n es hn]
  rfl

/-- The names of WS fit their slot: each is a validated entry's (R41, R285). -/
theorem name_length_of_wsLookup (es : List (Byte × RD)) (hv : ImportValid es) (n : Byte) (r : Record)
    (h : wsLookup n (importedSet es) = some r) : r.name.length ≤ 12 := by
  by_cases hn : n ∈ es.map Prod.fst
  · obtain ⟨e, he, rfl⟩ := List.mem_map.1 hn
    rw [wsLookup_importedSet_of_mem es hv.distinct e he] at h
    cases h
    exact recordOf_name_length e.2
  · rw [wsLookup_importedSet_none n es hn] at h
    cases h

/-- The state once the write loop has gone through the channels `ns` and then `n`, WS holding `w`. -/
def imported (w : WorkingSet) (ns : List Byte) (n : Byte) (s : State) : State :=
  { peerAfter (3 * (ns.length + 1)) s with
    flags := setBit s.flags 0 false
    chanCtr := n
    reqChan := n
    addrReg := n
    ckReg := checksum (slotBytes w n)
    recBuf := Memory.ofBytes (slotBytes w n)
    transcript := s.transcript ++ (ns ++ [n]).flatMap fun n => writeEvents n (slotBytes w n)
    txCount := s.txCount + BitVec.ofNat 32 (37 * (ns.length + 1))
    rxCount := s.rxCount + BitVec.ofNat 32 (3 * (ns.length + 1)) }

/-- REC_BUF given what a slot gets, its length checked (R249). -/
theorem thread_importSlot (n : Byte) (ops : List Micro) (s : State) (hm : s.mode = .busy)
    (hfits : ∀ r, wsLookup n s.ws = some r → r.name.length ≤ 12) :
    thread (.importSlot n :: .checkSlot n :: ops) s = thread ops (loadRecord (slotBytes s.ws n) s) := by
  cases hl : wsLookup n s.ws with
  | none =>
    rw [slotBytes, hl, thread_cons_busy (.importSlot n) _ s (loadRecord emptySlot s) (by rw [perform, hl]) hm]
    exact thread_cons_busy (.checkSlot n) ops _ _ (by rw [perform, loadRecord_ws, hl]) hm
  | some r =>
    rw [slotBytes, hl, thread_cons_busy (.importSlot n) _ s (loadRecord (rencode r) s)
      (by simp only [perform, hl, storeEncoded_ok r s (hfits r hl)]) hm]
    exact thread_cons_busy (.checkSlot n) ops _ _
      (by simp only [perform, loadRecord_ws, hl, checkEncoded_ok r _ (hfits r hl)]) hm

theorem slotBytes_length (w : WorkingSet) (n : Byte) (hfits : ∀ r, wsLookup n w = some r → r.name.length ≤ 12) :
    (slotBytes w n).length = 32 := by
  rw [slotBytes]
  split
  · next r hl => exact rencode_length r (hfits r hl)
  · rfl

/-- One channel of the write loop (R249). -/
theorem thread_importChannel (w : WorkingSet) (n : Byte) (ops : List Micro) (s : State) (hm : s.mode = .busy)
    (hn : channelOk n = true) (hw : s.ws = w) (hfits : ∀ k r, wsLookup k w = some r → r.name.length ≤ 12)
    (hp : Answered writeReads s) :
    thread (importChannel n ++ ops) s = thread ops (imported w [] n s) := by
  subst hw
  have hlen := slotBytes_length s.ws n (hfits n)
  simp only [importChannel, List.cons_append, List.nil_append]
  rw [thread_cons_busy (.setChanCtr n) _ s { s with chanCtr := n, reqChan := n } rfl hm,
    thread_importSlot n _ _ (by exact hm) (by exact hfits n),
    thread_bracketWrite n (slotBytes s.ws n) ops _ (by exact hm) hn
      (recordBytes_of_ofBytes _ _ (by rfl) hlen) (by exact hp), imported, List.nil_append, List.flatMap_singleton]
  rfl

/-- A channel after others. -/
theorem imported_imported (w : WorkingSet) (ms : List Byte) (m n : Byte) (s : State) :
    imported w [] n (imported w ms m s) = imported w (ms ++ [m]) n s := by
  have hcount : ∀ (v : Word32) (k : Nat), v + BitVec.ofNat 32 (k * ((ms ++ [m]).length + 1)) =
      v + BitVec.ofNat 32 (k * (ms.length + 1)) + BitVec.ofNat 32 (k * (0 + 1)) := fun v k => by
    rw [BitVec.add_assoc, ← BitVec.ofNat_add, List.length_append, List.length_singleton, ← Nat.mul_add]
  have hpeer : peerAfter (3 * ((ms ++ [m]).length + 1)) s =
      peerAfter (3 * (0 + 1)) (peerAfter (3 * (ms.length + 1)) s) := by
    rw [peerAfter_add, ← Nat.mul_add, List.length_append, List.length_singleton]
  conv_rhs => rw [imported, hpeer, hcount, hcount, List.flatMap_append, ← List.append_assoc,
    ← setBit_setBit s.flags 0 false]
  rfl

/-- The write loop over the channels `ns` and then `n` (R249). -/
theorem thread_importChannels (w : WorkingSet) (ns : List Byte) (n : Byte) (ops : List Micro) (s : State)
    (hm : s.mode = .busy) (hn : ∀ k ∈ ns ++ [n], channelOk k = true) (hw : s.ws = w)
    (hfits : ∀ k r, wsLookup k w = some r → r.name.length ≤ 12)
    (hp : Answered ((ns ++ [n]).flatMap fun _ => writeReads) s) :
    thread ((ns ++ [n]).flatMap importChannel ++ ops) s = thread ops (imported w ns n s) := by
  induction ns using List.reverseRecOn generalizing n ops with
  | nil =>
    rw [List.nil_append, List.flatMap_singleton] at hp ⊢
    exact thread_importChannel w n ops s hm (hn n (by simp)) hw hfits hp
  | append_singleton ms m ih =>
    obtain ⟨hms, hlast⟩ := (answered_flatMap_concat _ n _ 3 (fun _ => rfl) s).1 hp
    rw [List.length_append, List.length_singleton] at hlast
    rw [List.flatMap_append, List.flatMap_singleton, List.append_assoc,
      ih m _ (fun k hk => hn k (List.mem_append_left _ hk)) hms,
      thread_importChannel w n ops _ (by exact hm) (hn n (by simp)) (by exact hw) hfits (by exact hlast),
      imported_imported]

/-- Settles O38: the validation phase, the write loop over the 198 channels, and the radio's reset. -/
theorem importAllWritesEverySlot : Obligations.ImportAllWritesEverySlot := by
  refine ⟨fun entries hv => ⟨slotBytes_importedSet_of_mem entries hv, slotBytes_importedSet_of_notMem entries⟩,
    fun entries s hr hm hw hv hp => ?_⟩
  refine (runRequest_accepted 0#8 (importOps entries) s hr hm).trans ?_
  rw [channels_eq_concat] at hp
  have hans : ∀ t : State, t.peer = s.peer → t.peerDraws = s.peerDraws →
      Answered ((earlierChannels ++ [198#8]).flatMap fun _ => writeReads) t := fun t h1 h2 =>
    (answered_congr _ s t h1 h2).2 hp
  have hops : importOps entries = channels.map .clearEntry ++ (entries.flatMap importEntry ++
      ((earlierChannels ++ [198#8]).flatMap importChannel ++ (.tx 0x49#8 :: finishTerminated))) := by
    simp only [importOps, importCheck, wReset, ← channels_eq_concat, List.append_assoc, List.cons_append,
      List.nil_append]
  rw [hops, thread_importValid entries _ (accepted 0#8 s) s.flags hv rfl hw rfl,
    thread_importChannels (importedSet entries) earlierChannels 198#8 _ _ rfl channelOk_of_mem_channels rfl
      (name_length_of_wsLookup entries hv) (hans _ (by rfl) (by rfl)),
    thread_cons_busy (.tx 0x49#8) _ _ _ rfl (by rfl), thread_finishTerminated,
    statusByte_eq _ (entries.any fun e => truncates allFields e.2)
      (by exact (getLsbD_two_setBit _ 0 false (by decide)).trans (getLsbD_two_setBit_same _ _)),
    imported, earlierChannels_length, channels_eq_concat]
  conv_rhs => rw [← hr.restored hm, show (7327#32) = 7326#32 + 1#32 from rfl, ← BitVec.add_assoc]
  rfl

end Sys2Proof.Machine

/-! PROOFS. Session, auxiliary and transport requests (46_session_aux.md R300 to R305): the remote session of a key
sequence, the one-byte requests, the battery request's refusal, and the opening. -/

namespace Sys2Proof.Machine

/-! ### Key sequences -/

theorem keyOk_iff (c : Byte) : keyOk c = true ↔ c.toNat ≤ 126 := decide_eq_true_iff

/-- The key-code test passing (R290). -/
theorem thread_validateKeys_ok (codes : List Byte) (ops : List Micro) (s : State) (hm : s.mode = .busy)
    (h : ∀ c ∈ codes, c.toNat ≤ 126) : thread (.validateKeys codes :: ops) s = thread ops s := by
  have hall : codes.all keyOk = true := List.all_eq_true.2 fun c hc => (keyOk_iff c).2 (h c hc)
  exact thread_cons_busy _ ops s s (by rw [perform, hall, require, if_pos rfl]) hm

/-- The key-code test failing (R290). -/
theorem thread_validateKeys_bad (codes : List Byte) (ops : List Micro) (s : State)
    (h : ∃ c ∈ codes, 126 < c.toNat) :
    thread (.validateKeys codes :: ops) s = .stopped (validationFault 11#8 0#8 s) (.validateKeys codes :: ops) := by
  obtain ⟨c, hc, hlt⟩ := h
  have hall : codes.all keyOk = false := by
    refine Bool.eq_false_iff.2 fun hall => ?_
    have hle := (keyOk_iff c).1 (List.all_eq_true.1 hall c hc)
    omega
  exact thread_cons_faulted _ ops s _ (by rw [perform, hall, ← invalid_eq]; rfl) rfl

/-- The key-down byte of a code, its bit 7 being set anyway (R213). -/
theorem keyDownByte_setWidth (c : Byte) : 0x80#8 ||| (c.setWidth 7).setWidth 8 = 0x80#8 ||| c := by
  revert c; decide

/-- `KEY(c)` (R215). -/
theorem thread_keyPress (c : Byte) (ops : List Micro) (s : State) (hm : s.mode = .busy) (hc : c.toNat ≤ 126) :
    thread (keyPress (c.setWidth 7) ++ ops) s = thread ops { s with
      transcript := s.transcript ++ keyEvents c
      txCount := s.txCount + 2#32 } := by
  have h127 : c.setWidth 7 ≠ 127#7 := by bv_omega
  simp only [keyPress, wKeyDown, wKeyUp, List.cons_append, List.nil_append]
  rw [thread_cons_busy _ _ s _ (perform_keyDown _ s h127) hm, keyDownByte_setWidth,
    thread_cons_busy .dwell _ _ _ rfl (by exact hm), thread_cons_busy (.tx _) _ _ _ rfl (by exact hm),
    thread_cons_busy .dwell _ _ _ rfl (by exact hm)]
  simp [tx, dwell, keyEvents, Config.keyRelease, BitVec.add_assoc]

/-- The key presses of a sequence (R300). -/
theorem thread_keyPresses (codes : List Byte) (ops : List Micro) (s : State) (hm : s.mode = .busy)
    (hc : ∀ c ∈ codes, c.toNat ≤ 126) :
    thread (codes.flatMap (fun c => keyPress (c.setWidth 7)) ++ ops) s = thread ops { s with
      transcript := s.transcript ++ codes.flatMap keyEvents
      txCount := s.txCount + BitVec.ofNat 32 (2 * codes.length) } := by
  induction codes generalizing s with
  | nil => simp
  | cons c codes ih =>
    have hcount : s.txCount + 2#32 + BitVec.ofNat 32 (2 * codes.length) =
        s.txCount + BitVec.ofNat 32 (2 * (c :: codes).length) := by
      rw [BitVec.add_assoc, ← BitVec.ofNat_add, List.length_cons, Nat.mul_succ, Nat.add_comm]
    rw [List.flatMap_cons, List.append_assoc, thread_keyPress c _ s hm (hc c (by simp)),
      ih _ (by exact hm) fun k hk => hc k (List.mem_cons_of_mem c hk), ← hcount, List.flatMap_cons,
      ← List.append_assoc]

/-- A session command acknowledged (R211, R212). -/
theorem thread_remote (e : Byte) (b : Bool) (ops : List Micro) (s : State) (hm : s.mode = .busy)
    (hp : peerBytes 1 s = [e]) :
    thread (.tx e :: (ackOps e ++ .remoteActive b :: ops)) s = thread ops { peerUsed s with
      flags := setBit s.flags 1 b
      transcript := s.transcript ++ [.tx e, .rx 1 [e]]
      txCount := s.txCount + 1#32
      rxCount := s.rxCount + 1#32 } := by
  rw [thread_txAck e _ s hm hp]
  exact thread_cons_busy (.remoteActive b) ops _ _ rfl hm

/-- A remote session of a sequence that is not empty (R300). -/
theorem thread_keySession (codes : List Byte) (ops : List Micro) (s : State) (hm : s.mode = .busy)
    (hne : codes ≠ []) (hc : ∀ c ∈ codes, c.toNat ≤ 126) (hp : Answered [(1, [0x4A#8]), (1, [0x4B#8])] s) :
    thread (keySession codes ++ ops) s = thread ops { peerAfter 2 s with
      flags := setBit s.flags 1 false
      transcript := s.transcript ++ sessionEvents codes
      txCount := s.txCount + BitVec.ofNat 32 (2 * codes.length + 2)
      rxCount := s.rxCount + 2#32 } := by
  obtain ⟨hstart, hend, -⟩ := hp
  have hsession : keySession codes = wRemoteStart ++ codes.flatMap (fun c => keyPress (c.setWidth 7)) ++ wRemoteEnd :=
    if_neg (by simpa using hne)
  simp only [hsession, wRemoteStart, wRemoteEnd, List.append_assoc, List.cons_append, List.nil_append]
  rw [thread_remote 0x4A#8 true _ s hm hstart, thread_keyPresses codes _ _ (by exact hm) hc,
    thread_remote 0x4B#8 false _ _ (by exact hm) (by exact hend)]
  have hcount : s.txCount + 1#32 + BitVec.ofNat 32 (2 * codes.length) + 1#32 =
      s.txCount + BitVec.ofNat 32 (2 * codes.length + 2) := by
    rw [BitVec.add_assoc, BitVec.add_assoc, ← BitVec.ofNat_add, ← BitVec.ofNat_add]
    congr 2
    omega
  conv_rhs => rw [peerAfter_succ, peerAfter_succ, peerAfter_zero, ← setBit_setBit s.flags 1 true, ← hcount,
    show (2#32) = 1#32 + 1#32 from rfl, ← BitVec.add_assoc, sessionEvents, ← List.append_assoc, ← List.append_assoc]
  rfl

/-- Settles O39: the test of the codes, the session, and the request's end. -/
theorem sendKeysDeliversTheSequence : Obligations.SendKeysDeliversTheSequence := by
  intro codes s hr hm hne hc hp
  refine (runRequest_accepted 0#8 (sendKeysOps codes) s hr hm).trans ?_
  rw [sendKeysOps, List.append_assoc, List.singleton_append, thread_validateKeys_ok codes _ _ rfl hc,
    thread_keySession codes _ _ rfl hne hc (by exact hp), thread_finishIdle,
    statusByte_eq _ false (by exact (getLsbD_two_setBit _ 1 false (by decide)).trans (getLsbD_two_setBit_same _ _))]
  conv_rhs => rw [← hr.restored hm]
  rfl

/-- Settles O40: no code leaves the request's end alone; a code above 126 fails the test before any byte. -/
theorem sendKeysWithoutAValidSequence : Obligations.SendKeysWithoutAValidSequence := by
  intro s hr hm
  refine ⟨?_, fun codes hc => ?_⟩
  · refine (runRequest_accepted 0#8 (sendKeysOps []) s hr hm).trans ?_
    have hops : sendKeysOps [] = .validateKeys [] :: finishIdle := rfl
    rw [hops, thread_validateKeys_ok [] _ _ rfl (by simp), thread_finishIdle,
      statusByte_eq _ false (by exact getLsbD_two_setBit_same _ _)]
    conv_rhs => rw [← hr.restored hm]
    rfl
  · exact runRequest_invalid 0#8 11#8 0#8 _ _ s hr hm fun t _ => thread_validateKeys_bad codes _ t hc

/-! ### One byte, a refusal, an opening -/

/-- Settles O41: of each request, its byte and its end. -/
theorem oneByteRequestsComplete : Obligations.OneByteRequestsComplete := by
  intro s hr hm p hp
  have hsend : ∀ (b : Byte) (ops : List Micro), thread ([.tx b] ++ ops) (accepted 0#8 s) =
      thread ops (tx b (accepted 0#8 s)) := fun b ops => thread_cons_busy (.tx b) ops _ _ rfl rfl
  have hstatus : ∀ b, statusByte (tx b (accepted 0#8 s)) = 0x00#8 := fun b =>
    statusByte_eq _ false (getLsbD_two_setBit_same s.flags false)
  simp only [List.mem_cons, List.not_mem_nil, or_false] at hp
  rcases hp with rfl | rfl | rfl
  · refine (runRequest_accepted 0#8 (wFlashOn ++ finishIdle) s hr hm).trans ?_
    rw [wFlashOn, hsend, thread_finishIdle, hstatus]
    conv_rhs => rw [← hr.restored hm]
    rfl
  · refine (runRequest_accepted 0#8 (wFlashOff ++ finishIdle) s hr hm).trans ?_
    rw [wFlashOff, hsend, thread_finishIdle, hstatus]
    conv_rhs => rw [← hr.restored hm]
    rfl
  · refine (runRequest_accepted 0#8 (wReset ++ finishTerminated) s hr hm).trans ?_
    rw [wReset, hsend, thread_finishTerminated, hstatus]
    conv_rhs => rw [← hr.restored hm]
    rfl

/-- Settles O42: the tests of MODE pass in IDLE, and the refusal ends the request. -/
theorem readBatteryIsRefused : Obligations.ReadBatteryIsRefused := by
  intro s hr hm
  have hadmit : ∀ t : State, t.mode = .idle → perform .admitTransport t = .next t := fun t ht => by
    rw [perform, if_neg (by rw [ht]; decide), if_neg (by rw [ht]; decide)]
  refine (takeRequest_ok 0#8 _ s (accepts_idle s hr.await hm) hr.unlimited).trans ?_
  rw [thread_cons_next .admitTransport _ _ _ (hadmit _ (by exact hm))
      (by exact halted_of_accepts s (accepts_idle s hr.await hm)),
    thread_cons_refused .refuseBattery [] _ _ rfl rfl, settle_stopped_await _ _ (by rfl)]
  conv_rhs => rw [← hr.restored hm]
  rfl

/-- OPEN in CLOSED comes to the draw of its opening (R305). -/
theorem exec_openTransport_closed (s : State) (hr : Ready s) (hm : s.mode = .closed) :
    exec .openTransport s = settle (thread (.requireOpen :: finishIdle)
      { s with flags := setBit s.flags 2 false, reqChan := 0#8 }) := by
  have ha := accepts_closed s hr.await hm
  have hh := halted_of_accepts s ha
  refine (takeRequest_ok 0#8 _ s ha hr.unlimited).trans ?_
  rw [thread_cons_next .admitOpen _ _ _ (by rw [perform, if_pos (by exact hm)]) (by exact hh)]
  simp only [List.cons_append, List.nil_append]
  rw [thread_localValue _ _ (by exact hh), ← hr.await]

/-- Settles O43: the outcome of the opening decides. -/
theorem openOpensOrFaults : Obligations.OpenOpensOrFaults := by
  intro s hr hm
  rw [exec_openTransport_closed s hr hm]
  refine ⟨fun ho => ?_, fun ho => ?_⟩
  · have hopen : ∀ t : State, openingOk t = true → perform .requireOpen t = .next (openingUsed t) := fun t ht => by
      rw [perform, if_pos ht]
    rw [thread_cons_next .requireOpen _ _ _ (hopen _ (by exact ho)) (by simp [halted, hm]), thread_finishIdle,
      statusByte_eq _ false (by exact getLsbD_two_setBit_same _ _)]
    rfl
  · have hfail : ∀ t : State, openingOk t = false →
        perform .requireOpen t = .next (raise .transportOpen {} (openingUsed t)) := fun t ht => by
      rw [perform, if_neg (by rw [ht]; decide)]
    rw [thread_cons_faulted .requireOpen finishIdle _ _ (hfail _ (by exact ho)) rfl,
      settle_stopped_await _ _ (by exact hr.await), faultEntryLatches.1]
    rfl

end Sys2Proof.Machine

/-! PROOFS. The layout of the encoded record (30_encoding.md R100 to R109) and the pure requests (40_checksum.md
R131, 41_group_codec.md R145 to R148, 42_channel_record.md R174 to R176): bytes and nibbles as arithmetic on the
values, then each request's answer. -/

namespace Sys2Proof.Machine

/-! ### Bytes and nibbles as arithmetic -/

/-- A byte of a value, by its place (R12). -/
theorem extractByte_eq {w : Nat} (v : BitVec w) (i : Nat) :
    v.extractLsb' (8 * i) 8 = BitVec.ofNat 8 (v.toNat / 256 ^ i) := by
  apply BitVec.eq_of_toNat_eq
  rw [BitVec.extractLsb'_toNat, BitVec.toNat_ofNat, Nat.shiftRight_eq_div_pow, Nat.pow_mul]

theorem bytesLE16_eq (v : Word16) :
    bytesLE16 v = (List.range 2).map fun i => BitVec.ofNat 8 (v.toNat / 256 ^ i) := by
  simp only [← extractByte_eq]
  rfl

theorem bytesLE32_eq (v : Word32) :
    bytesLE32 v = (List.range 4).map fun i => BitVec.ofNat 8 (v.toNat / 256 ^ i) := by
  simp only [← extractByte_eq]
  rfl

theorem lowNibble_eq (b : Byte) : (b.extractLsb' 0 4).setWidth 8 = BitVec.ofNat 8 (b.toNat % 16) := by
  apply BitVec.eq_of_toNat_eq
  simp only [BitVec.toNat_setWidth, BitVec.extractLsb'_toNat, BitVec.toNat_ofNat, Nat.shiftRight_zero]

theorem highNibble_eq (b : Byte) : (b.extractLsb' 4 4).setWidth 8 = BitVec.ofNat 8 (b.toNat / 16) := by
  apply BitVec.eq_of_toNat_eq
  simp only [BitVec.toNat_setWidth, BitVec.extractLsb'_toNat, BitVec.toNat_ofNat, Nat.shiftRight_eq_div_pow]
  omega

theorem groupBytes_gdecode (b0 b1 : Byte) : groupBytes (gdecode b0 b1) =
    [BitVec.ofNat 8 (b0.toNat % 16), BitVec.ofNat 8 (b0.toNat / 16), BitVec.ofNat 8 (b1.toNat % 16),
      BitVec.ofNat 8 (b1.toNat / 16)] := by
  simp only [groupBytes, gdecode, lowNibble_eq, highNibble_eq]

theorem toNat_joinNibbles (hi lo : Nibble) : (hi ++ lo : Byte).toNat = lo.toNat + 16 * hi.toNat := by
  rw [BitVec.toNat_append, ← Nat.shiftLeft_add_eq_or_of_lt lo.isLt, Nat.shiftLeft_eq]
  omega

/-- Two group values packed into a byte (R142). -/
theorem joinNibbles_setWidth (hi lo : Byte) (h : lo.toNat ≤ 15 ∧ hi.toNat ≤ 15) :
    (hi.setWidth 4 ++ lo.setWidth 4 : Byte) = BitVec.ofNat 8 (lo.toNat + 16 * hi.toNat) := by
  apply BitVec.eq_of_toNat_eq
  rw [toNat_joinNibbles, BitVec.toNat_setWidth, BitVec.toNat_setWidth, BitVec.toNat_ofNat]
  omega

/-- The flags byte as a sum: the three fields share no bit (R107, R166). -/
theorem toNat_flagsByte (m : Modulation) (w : Bandwidth) :
    (flagsByte m w).toNat = 0xF8 + 2 * (modulationCode m).toNat + (bandwidthCode w).toNat := by
  cases m <;> cases w <;> rfl

/-! ### The layout -/

/-- A byte of the name's slot: the name's, or 0x00 past its end (R109, R168). -/
theorem byteAt_rencode_name (r : Record) (i : Nat) : byteAt (rencode r) (20 + i) = r.name.getD i 0x00#8 := by
  have hdrop : byteAt (rencode r) (20 + i) = byteAt ((rencode r).drop 20) i := by
    simp [byteAt, List.getD_eq_getElem?_getD]
  rw [hdrop, drop_rencode, byteAt, List.getD_eq_getElem?_getD, List.getD_eq_getElem?_getD]
  rcases Nat.lt_or_ge i r.name.length with hi | hi
  · rw [List.getElem?_append_left hi]
  · rw [List.getElem?_append_right hi, List.getElem?_eq_none hi, List.getElem?_replicate]
    split <;> rfl

/-- Settles O56: each byte of the encoding is one of the list it is written as. -/
theorem encodedRecordLayout : Obligations.EncodedRecordLayout := by
  intro r hlen
  have hbyte : ∀ {w : Nat} (v : BitVec w) (i : Nat), (v.extractLsb' (8 * i) 8).toNat = v.toNat / 256 ^ i % 256 :=
    fun v i => by rw [extractByte_eq, BitVec.toNat_ofNat]
  refine ⟨rencode_length r hlen, fun i hi => ?_, fun i hi => ?_, fun i hi => ?_, fun i hi => ?_, rfl,
    toNat_joinNibbles r.g.g1 r.g.g0, toNat_joinNibbles r.g.g3 r.g.g2, toNat_flagsByte r.modulation r.bandwidth,
    fun i hi => ?_, fun i _ => byteAt_rencode_name r i⟩
  · rw [← hbyte]; interval_cases i <;> rfl
  · rw [← hbyte]; interval_cases i <;> rfl
  · rw [← hbyte]; interval_cases i <;> rfl
  · rw [← hbyte]; interval_cases i <;> rfl
  · interval_cases i <;> rfl

/-! ### The state a pure request runs from -/

/-- `s` once a pure request is accepted: MODE stands (R240). -/
def taken (s : State) : State := { s with flags := setBit s.flags 2 false, reqChan := 0#8, stepPtr := [] }

/-- A pure request that runs whole. -/
theorem runPure_ran (ops : List Micro) (s t : State) (ha : accepts s = true) (hb : s.budget = none)
    (h : thread ops (taken s) = .ran t) : runPure ops s = .next t := by
  rw [runPure, takeRequest_ok 0#8 ops s ha hb]
  exact congrArg settle h

theorem not_halted_taken (s : State) (ha : accepts s = true) : halted (taken s) = false := halted_of_accepts s ha

/-- STEP awaited a request, as it does again. -/
theorem restored_of_accepts (s : State) (ha : accepts s = true) : { s with stepPtr := [] } = s := by
  rw [← stepPtr_of_accepts s ha]

/-- An answer given. -/
theorem thread_emit (item : List Byte) (s : State) (hh : halted s = false) :
    thread [.emit item] s = .ran (out item s) :=
  thread_cons_next (.emit item) [] s _ rfl hh

/-- A check that passes. -/
theorem thread_require_ok (op : Micro) (ok : Bool) (field chan : Byte) (ops : List Micro) (s : State)
    (hh : halted s = false) (hop : perform op s = .next (require ok field chan s)) (h : ok = true) :
    thread (op :: ops) s = thread ops s :=
  thread_cons_next op ops s s (by rw [hop, h]; rfl) hh

/-- A check that fails. -/
theorem thread_require_bad (op : Micro) (ok : Bool) (field chan : Byte) (ops : List Micro) (s : State)
    (hop : perform op s = .next (require ok field chan s)) (h : ok = false) :
    thread (op :: ops) s = .stopped (validationFault field chan s) (op :: ops) :=
  thread_cons_faulted op ops s _ (by rw [hop, h, ← invalid_eq]; rfl) rfl

/-- A pure request whose pseudocode is an answer, computed into a local. -/
theorem runPure_answer (item : List Byte) (s : State) (ha : accepts s = true) (hb : s.budget = none) :
    runPure [.localValue, .emit item] s = .next { s with
      flags := setBit s.flags 2 false
      reqChan := 0#8
      responses := s.responses ++ [item] } := by
  have hh := not_halted_taken s ha
  refine (runPure_ran _ s _ ha hb ((thread_localValue _ _ hh).trans (thread_emit item _ hh))).trans ?_
  conv_rhs => rw [← restored_of_accepts s ha]
  rfl

/-- The same after a check that passes. -/
theorem runPure_checked (op : Micro) (ok : Bool) (item : List Byte) (s : State) (ha : accepts s = true)
    (hb : s.budget = none) (hop : ∀ t, perform op t = .next (require ok 7#8 0#8 t)) (h : ok = true) :
    runPure [op, .localValue, .emit item] s = .next { s with
      flags := setBit s.flags 2 false
      reqChan := 0#8
      responses := s.responses ++ [item] } := by
  refine Eq.trans ?_ (runPure_answer item s ha hb)
  rw [runPure, runPure, takeRequest_ok _ _ s ha hb, takeRequest_ok _ _ s ha hb,
    thread_require_ok op ok 7#8 0#8 _ _ (by exact halted_of_accepts s ha) (hop _) h]

/-- The same where the check fails. -/
theorem runPure_refuted (op : Micro) (ok : Bool) (ops : List Micro) (s : State) (ha : accepts s = true)
    (hb : s.budget = none) (hop : ∀ t, perform op t = .next (require ok 7#8 0#8 t)) (h : ok = false) :
    runPure (op :: ops) s = .next { validationFault 7#8 0#8 s with
      flags := setBit s.flags 2 false, reqChan := 0#8, stepPtr := op :: ops } :=
  runPure_invalid 7#8 _ _ s ha hb fun t _ => thread_require_bad op ok 7#8 0#8 ops t (hop t) h

/-! ### CHECKSUM, IS_EMPTY and the groups -/

/-- Settles O44: CK_REG is written and the answer given. -/
theorem checksumRequestAnswers : Obligations.ChecksumRequestAnswers := by
  intro d s ha hb
  have hh := not_halted_taken s ha
  refine (runPure_ran (checksumOps d) s _ ha hb ((thread_localValue _ _ hh).trans
    ((thread_cons_next (.setCheck (checksum d)) _ (taken s) _ rfl (by exact hh)).trans
      (thread_emit _ _ (by exact hh))))).trans ?_
  conv_rhs => rw [← restored_of_accepts s ha]
  rfl

/-- LAST_EMPTY is written and the answer given (R176). -/
theorem exec_isEmpty (d : List Byte) (s : State) (ha : accepts s = true) (hb : s.budget = none) :
    exec (.isEmpty d) s = .next { s with
      flags := setBit (setBit s.flags 2 false) 3 (isEmptyRecord d), reqChan := 0#8
      responses := s.responses ++ [[0x00#8, if isEmptyRecord d then 0x01#8 else 0x00#8]] } := by
  have hh := not_halted_taken s ha
  refine (runPure_ran (isEmptyOps d) s _ ha hb ((thread_localValue _ _ hh).trans
    ((thread_cons_next (.setLastEmpty (isEmptyRecord d)) _ (taken s) _ rfl (by exact hh)).trans
      (thread_emit _ _ (by exact hh))))).trans ?_
  conv_rhs => rw [← restored_of_accepts s ha]
  rfl

theorem isEmptyRecord_of_forall (d : List Byte) (hd : d.length = 32) (h : ∀ b ∈ d, b = 0xFF#8) :
    isEmptyRecord d = true := by
  simpa [isEmptyRecord, Config.recordBytes, hd] using h

/-- Settles O51: the test's two outcomes. -/
theorem isEmptyAnswers : Obligations.IsEmptyAnswers := by
  intro d s ha hb hd
  refine ⟨fun h => ?_, fun h => ?_⟩
  · have he := isEmptyRecord_of_forall d hd h
    exact ⟨he, by rw [exec_isEmpty d s ha hb, he]; rfl⟩
  · have he := isEmptyRecord_of_mem d h
    exact ⟨he, by rw [exec_isEmpty d s ha hb, he]; rfl⟩

/-- Settles O45: the four nibbles as arithmetic. -/
theorem groupDecodeAnswers : Obligations.GroupDecodeAnswers := by
  intro b0 b1 s ha hb
  rw [← groupBytes_gdecode]
  exact runPure_answer _ s ha hb

/-- GROUP_ENCODE's test (R146, R286). -/
theorem groupsTest_iff (g : List Byte) : (decide (g.length ≤ Config.groupSlots) && g.all groupOk) = true ↔
    g.length ≤ 4 ∧ ∀ v ∈ g, v.toNat ≤ 15 := by
  rw [Bool.and_eq_true, decide_eq_true_iff, List.all_eq_true]
  simp only [groupOk, decide_eq_true_iff, Config.groupSlots]

/-- The two bytes of at most four valid values (R142). -/
theorem gencode_padGroups (g : List Byte) (hg : ∀ v ∈ g, v.toNat ≤ 15) : gencode (padGroups g) =
    (BitVec.ofNat 8 ((g.getD 0 0#8).toNat + 16 * (g.getD 1 0#8).toNat),
      BitVec.ofNat 8 ((g.getD 2 0#8).toNat + 16 * (g.getD 3 0#8).toNat)) := by
  have hle := byteAt_le_of_forall hg
  exact Prod.ext (joinNibbles_setWidth _ _ ⟨hle 0, hle 1⟩) (joinNibbles_setWidth _ _ ⟨hle 2, hle 3⟩)

/-- Settles O46: the test's two outcomes, and the packing. -/
theorem groupEncodePacksOrFaults : Obligations.GroupEncodePacksOrFaults := by
  intro g s ha hb
  refine ⟨fun hlen hg => ?_, fun hbad => ?_⟩
  · refine (runPure_checked (.requireGroups g) _ _ s ha hb (fun _ => rfl)
      ((groupsTest_iff g).2 ⟨hlen, hg⟩)).trans ?_
    rw [gencode_padGroups g hg]
  · refine runPure_refuted (.requireGroups g) _ _ s ha hb (fun _ => rfl) (Bool.eq_false_iff.2 fun hok => ?_)
    obtain ⟨hlen, hg⟩ := (groupsTest_iff g).1 hok
    rcases hbad with hlong | ⟨v, hv, hlt⟩
    · omega
    · have := hg v hv
      omega

/-! ### Letters -/

/-- The characters of R143. -/
def isGroupLetter (c : Byte) : Prop :=
  (0x41 ≤ c.toNat ∧ c.toNat ≤ 0x4F) ∨ (0x61 ≤ c.toNat ∧ c.toNat ≤ 0x6F) ∨ c.toNat = 0x30

/-- The value of a character of R143. -/
def groupLetterValue (c : Byte) : Byte :=
  if c.toNat = 0x30 then 0#8 else if c.toNat ≤ 0x4F then c - 0x40#8 else c - 0x60#8

theorem letterValue_of_isGroupLetter (c : Byte) (h : isGroupLetter c) : letterValue c = some (groupLetterValue c) := by
  unfold letterValue groupLetterValue
  rcases h with ⟨hlo, hhi⟩ | ⟨hlo, hhi⟩ | hz
  · rw [if_pos ⟨hlo, hhi⟩, if_neg (by omega), if_pos hhi]
  · rw [if_neg (by omega), if_pos ⟨hlo, hhi⟩, if_neg (by omega), if_neg (by omega)]
  · rw [if_neg (by omega), if_neg (by omega), if_pos (BitVec.eq_of_toNat_eq hz), if_pos hz]

theorem isGroupLetter_of_letterValue (c v : Byte) (h : letterValue c = some v) : isGroupLetter c := by
  rcases letterValue_some_cases h with ⟨hlo, hhi, -⟩ | ⟨hlo, hhi, -⟩ | ⟨rfl, -⟩
  · exact .inl ⟨hlo, hhi⟩
  · exact .inr (.inl ⟨hlo, hhi⟩)
  · exact .inr (.inr rfl)

theorem letterValues_of_forall (t : List Byte) (h : ∀ c ∈ t, isGroupLetter c) :
    letterValues t = some (t.map groupLetterValue) := by
  induction t with
  | nil => rfl
  | cons c t ih =>
    rw [letterValues, letterValue_of_isGroupLetter c (h c (by simp)), ih fun k hk => h k (List.mem_cons_of_mem c hk)]
    rfl

theorem isGroupLetter_of_letterValues (t vs : List Byte) (h : letterValues t = some vs) :
    ∀ c ∈ t, isGroupLetter c := by
  induction t generalizing vs with
  | nil => simp
  | cons c t ih =>
    obtain ⟨v, ws, hv, hws, -⟩ := letterValues_cons_some h
    intro k hk
    rcases List.mem_cons.1 hk with rfl | hk
    · exact isGroupLetter_of_letterValue k v hv
    · exact ih ws hws k hk

/-- Settles O47: `letters_to_numbers` where it is defined, and where it is not. -/
theorem groupFromLettersMapsOrFaults : Obligations.GroupFromLettersMapsOrFaults := by
  intro t s ha hb
  refine ⟨fun hlen hc => ?_, fun hbad => ?_⟩
  · have hv : lettersToNumbers t = some (t.map groupLetterValue) := by
      rw [lettersToNumbers, if_pos (by exact hlen), letterValues_of_forall t hc]
    refine (runPure_checked (.requireLetters t) _ _ s ha hb (fun _ => rfl) (by rw [hv]; rfl)).trans ?_
    rw [hv, Option.getD_some, encodeCounted, List.length_map]
    rfl
  · refine runPure_refuted (.requireLetters t) _ _ s ha hb (fun _ => rfl) (Bool.eq_false_iff.2 fun hok => ?_)
    obtain ⟨v, hv⟩ := Option.isSome_iff_exists.1 hok
    have hall := isGroupLetter_of_letterValues t v (letterValues_of_lettersToNumbers hv)
    rcases hbad with hlong | ⟨c, hc, hno⟩
    · rw [lettersToNumbers, if_neg (by rw [Config.groupSlots]; omega)] at hv
      cases hv
    · have := hall c hc
      unfold isGroupLetter at this
      omega

/-- Settles O48: the count's two outcomes. -/
theorem groupToLettersMapsOrFaults : Obligations.GroupToLettersMapsOrFaults := by
  intro v s ha hb
  refine ⟨fun hlen => ?_, fun hlong => ?_⟩
  · refine (runPure_checked (.requireCount v) _ _ s ha hb (fun _ => rfl) (decide_eq_true hlen)).trans ?_
    rw [encodeCounted, numbersToLetters, List.length_map]
    rfl
  · exact runPure_refuted (.requireCount v) _ _ s ha hb (fun _ => rfl)
      (decide_eq_false (by rw [Config.groupSlots]; omega))

end Sys2Proof.Machine

/-! PROOFS. RECORD_DECODE and RECORD_ENCODE (42_channel_record.md R174, R175): the descriptor of 32 bytes and the 32
bytes of a descriptor, byte by byte, then each request's answer. -/

namespace Sys2Proof.Machine

/-! ### The descriptor of 32 bytes -/

/-- What is left of a name does not end in 0x00 (R164). -/
theorem strip0_getLast?_ne (t : List Byte) : (strip0 t).getLast? ≠ some 0x00#8 := by
  induction t using List.reverseRecOn with
  | nil => decide
  | append_singleton t b ih =>
    by_cases hb : b = 0#8
    · rw [hb, strip0_concat_zero]
      exact ih
    · rw [strip0_concat_of_ne t hb, List.getLast?_concat]
      exact fun h => hb (Option.some.inj h)

/-- Bits 2:1 of the flags byte, as the descriptor gives them (R107, R162). -/
theorem modulationByte_decoded (b : Byte) :
    (modulationCode (modulationOf (b.extractLsb' 1 2))).setWidth 8 = BitVec.ofNat 8 (b.toNat / 2 % 4) := by
  rw [modulationCode_modulationOf]
  apply BitVec.eq_of_toNat_eq
  simp only [BitVec.toNat_setWidth, BitVec.extractLsb'_toNat, BitVec.toNat_ofNat, Nat.shiftRight_eq_div_pow]

/-- Bit 0 of the flags byte, as the descriptor gives it (R107, R163). -/
theorem bandwidthByte_decoded (b : Byte) :
    (bandwidthCode (bandwidthOf (b.getLsbD 0))).setWidth 8 = BitVec.ofNat 8 (b.toNat % 2) := by
  rw [bandwidthCode_bandwidthOf, ← BitVec.setWidth_one]
  apply BitVec.eq_of_toNat_eq
  rw [BitVec.toNat_setWidth, BitVec.toNat_setWidth, BitVec.toNat_ofNat]

/-- The descriptor of a decoded record: the bytes read, but for the packed fields and the name's padding (R95, R161). -/
theorem recordRD_rdecode (d : List Byte) (hd : d.length = 32) :
    recordRD (rdecode d) = d.take 13 ++
      [BitVec.ofNat 8 ((byteAt d 13).toNat % 16), BitVec.ofNat 8 ((byteAt d 13).toNat / 16),
        BitVec.ofNat 8 ((byteAt d 14).toNat % 16), BitVec.ofNat 8 ((byteAt d 14).toNat / 16),
        BitVec.ofNat 8 ((byteAt d 15).toNat / 2 % 4), BitVec.ofNat 8 ((byteAt d 15).toNat % 2),
        BitVec.ofNat 8 (strip0 (d.drop 20)).length] ++ strip0 (d.drop 20) := by
  have hname : (rdecode d).name = strip0 (d.drop 20) :=
    congrArg strip0 (List.take_of_length_le (by rw [List.length_drop, hd, Config.nameBytes]))
  rw [← map_byteAt_range d (n := 13) (by omega), ← lowNibble_eq, ← highNibble_eq, ← lowNibble_eq, ← highNibble_eq,
    ← modulationByte_decoded, ← bandwidthByte_decoded, ← hname]
  simp only [recordRD, encodeRD, descriptorOf, rdecode, bytesLE32_le32, bytesLE16_le16]
  rfl

/-- Settles O49: the descriptor byte by byte, and the answer. -/
theorem recordDecodeAnswers : Obligations.RecordDecodeAnswers := by
  intro d bytes s ha hb hd hbytes
  have hrd : recordRD (rdecode d) = bytes := (recordRD_rdecode d hd).trans hbytes.symm
  refine ⟨hrd, exists_eq_strip0_append_zeros _, strip0_getLast?_ne _, ?_⟩
  rw [← hrd]
  exact runPure_answer _ s ha hb

/-! ### The 32 bytes of a descriptor -/

/-- Where no check fails, every supplied field passes (R292, R293). -/
theorem pass_of_firstFailure_none (m : Word16) (cs : List (Nat × Byte × Bool)) (h : firstFailure m cs = none) :
    ∀ c ∈ cs, supplied m c.1 = true → c.2.2 = true := by
  induction cs with
  | nil => simp
  | cons c cs ih =>
    obtain ⟨bit, code, ok⟩ := c
    rw [firstFailure] at h
    split at h
    · cases h
    · next hpass =>
      intro k hk hsup
      rcases List.mem_cons.1 hk with rfl | hk
      · simpa [hsup] using hpass
      · exact ih h k hk hsup

/-- What a valid descriptor's packed fields satisfy (R286, R288, R289). -/
theorem packedFields_of_valid (rd : RD) (hf : fieldFailure allFields rd = none) :
    (rd.g0.toNat ≤ 15 ∧ rd.g1.toNat ≤ 15 ∧ rd.g2.toNat ≤ 15 ∧ rd.g3.toNat ≤ 15) ∧ rd.modulation.toNat ≤ 3 ∧
      rd.bandwidth.toNat ≤ 1 := by
  have hall : ∀ i < 9, supplied allFields i = true := by decide
  have hpass := pass_of_firstFailure_none allFields (fieldChecks rd) hf
  exact ⟨(groupsOk_iff rd).1 (hpass (5, 7#8, groupsOk rd) (by simp [fieldChecks]) (hall 5 (by decide))),
    (modulationOk_iff _).1 (hpass (6, 8#8, modulationOk rd.modulation) (by simp [fieldChecks]) (hall 6 (by decide))),
    (bandwidthOk_iff _).1 (hpass (7, 9#8, bandwidthOk rd.bandwidth) (by simp [fieldChecks]) (hall 7 (by decide)))⟩

/-- The flags byte of a valid descriptor: its two fields under the reserved bits (R107, R166). -/
theorem flagsByte_recordOf (rd : RD) (hm : rd.modulation.toNat ≤ 3) (hw : rd.bandwidth.toNat ≤ 1) :
    flagsByte (recordOf rd).modulation (recordOf rd).bandwidth =
      BitVec.ofNat 8 (0xF8 + 2 * rd.modulation.toNat + rd.bandwidth.toNat) := by
  apply BitVec.eq_of_toNat_eq
  rw [toNat_flagsByte, modulationCode_recordOf rd hm, bandwidthCode_recordOf rd hw, BitVec.toNat_ofNat]
  omega

/-- The name's slot of a descriptor: its first 12 bytes, padded (R109, R285). -/
theorem paddedName_recordOf (rd : RD) :
    (recordOf rd).name ++ List.replicate (Config.nameBytes - (recordOf rd).name.length) 0x00#8 =
      rd.name.take 12 ++ List.replicate (12 - rd.name.length) 0x00#8 := by
  rw [recordOf, Config.nameBytes, List.length_take]
  congr 2
  omega

/-- The 32 bytes of a valid descriptor's record (R165). -/
theorem rencode_recordOf (rd : RD) (hf : fieldFailure allFields rd = none) : rencode (recordOf rd) =
    (List.range 4).map (fun i => BitVec.ofNat 8 (rd.rx.toNat / 256 ^ i)) ++
      (List.range 4).map (fun i => BitVec.ofNat 8 (rd.tx.toNat / 256 ^ i)) ++
      (List.range 2).map (fun i => BitVec.ofNat 8 (rd.rxt.toNat / 256 ^ i)) ++
      (List.range 2).map (fun i => BitVec.ofNat 8 (rd.txt.toNat / 256 ^ i)) ++
      [rd.pwr, BitVec.ofNat 8 (rd.g0.toNat + 16 * rd.g1.toNat), BitVec.ofNat 8 (rd.g2.toNat + 16 * rd.g3.toNat),
        BitVec.ofNat 8 (0xF8 + 2 * rd.modulation.toNat + rd.bandwidth.toNat), 0xFF#8, 0xFF#8, 0xFF#8, 0xFF#8] ++
      (rd.name.take 12 ++ List.replicate (12 - rd.name.length) 0x00#8) := by
  obtain ⟨⟨h0, h1, h2, h3⟩, hm, hw⟩ := packedFields_of_valid rd hf
  rw [← bytesLE32_eq, ← bytesLE32_eq, ← bytesLE16_eq, ← bytesLE16_eq, ← joinNibbles_setWidth _ _ ⟨h0, h1⟩,
    ← joinNibbles_setWidth _ _ ⟨h2, h3⟩, ← flagsByte_recordOf rd hm hw, ← paddedName_recordOf]
  rfl

/-- RECORD_ENCODE of a valid descriptor: the warning, REC_BUF and the answer (R175). -/
theorem exec_recordEncode (rd : RD) (s : State) (ha : accepts s = true) (hb : s.budget = none)
    (hf : fieldFailure allFields rd = none) : exec (.recordEncode rd) s = .next { s with
      flags := setBit s.flags 2 (decide (12 < rd.name.length))
      reqChan := 0#8
      recBuf := Memory.ofBytes (rencode (recordOf rd))
      responses := s.responses ++
        [(if 12 < rd.name.length then 0x01#8 else 0x00#8) :: rencode (recordOf rd)] } := by
  have hh := not_halted_taken s ha
  have hname := recordOf_name_length rd
  have hrun : thread (recordEncodeOps rd) (taken s) =
      thread [.respondRecord] (loadRecord (rencode (recordOf rd))
        { taken s with flags := setBit s.flags 2 (truncates allFields rd) }) := by
    simp only [recordEncodeOps, List.append_assoc, List.cons_append, List.nil_append]
    rw [thread_validateOps_ok 0#8 allFields rd _ _ hh hf, noteTruncation_accepted _ (taken s) s.flags rfl,
      thread_localValue _ _ (by exact hh), thread_encodeOps _ _ _ (by exact hh) hname]
  refine (runPure_ran (recordEncodeOps rd) s _ ha hb
    (hrun.trans (thread_cons_next .respondRecord [] _ _ rfl (by exact hh)))).trans ?_
  rw [statusByte_eq _ (truncates allFields rd) (by exact getLsbD_two_setBit_same _ _),
    recordBytes_loadRecord _ _ (rencode_length _ hname), truncates_allFields]
  simp only [decide_eq_true_eq]
  conv_rhs => rw [← restored_of_accepts s ha]
  rfl

/-- Settles O50: the 32 bytes byte by byte, and the answer. -/
theorem recordEncodeAnswers : Obligations.RecordEncodeAnswers := by
  intro rd bytes s ha hb hf hbytes
  have henc : rencode (recordOf rd) = bytes := (rencode_recordOf rd hf).trans hbytes.symm
  refine ⟨henc, ?_⟩
  rw [← henc]
  exact exec_recordEncode rd s ha hb hf

end Sys2Proof.Machine
